-- ==== Sys2Proof/Word.lean ====
section
/-! DEFINITION. The plain data every other file speaks of: bytes, colours, frames, descriptors, exact fractions. -/

namespace Sys2Proof

/-- Eight bits: a colour channel, a descriptor byte, a frame byte (R6 `CH_W`, R20). -/
abbrev Byte := BitVec 8

/-- A 32-bit counter or duration register (R6 `CNT_W`, `DUR_W`). -/
abbrev Word32 := BitVec 32

/-- A 16-bit operand field: a step count, a numerator or a denominator (R6 `STEPS_W`, `FRAC_W`). -/
abbrev Half := BitVec 16

/-- A colour `(r, g, b)`: three channel values, each an integer in 0..255, no alpha (R34, R91). -/
structure Color where
  r : Byte
  g : Byte
  b : Byte
  deriving DecidableEq, Repr

/-- The colour `(0, 0, 0)`. -/
def Color.black : Color := ⟨0, 0, 0⟩

/-- The 9-byte wire frame; index 0 goes first (R98, R62 (a)). -/
abbrev Frame := Vector Byte 9

/-- The 16 bytes of one command, byte 0 the opcode (R90). -/
abbrev Descriptor := Vector Byte 16

/-- An exact fraction `num / den`, not kept in lowest terms (R7; R93: "`1/2` and `2/4` mean the same").
`den` is positive wherever the block divides by it (R10). -/
structure Frac where
  num : Int
  den : Nat
  deriving DecidableEq, Repr

end Sys2Proof
end

