-- ==== Sys2Proof/Config.lean ====
section
/-! DEFINITION. The sizes the spec fixes for this implementation of the block (R5, R6), and the two platform constants
the Transport must target. The spec leaves no value of the block to an implementation: what stays open (the Transport's
answers, the end of a wait) is input, held in `Machine.State.inputs`, so no constant here is opaque. -/

namespace Sys2Proof.Config

/-- Bytes of a command descriptor (R6 `DESC_LEN`). -/
def descLen : Nat := 16

/-- Bytes of a wire frame (R5 `FRAME_LEN`). -/
def frameLen : Nat := 9

/-- Byte addresses of the host register space, `0x00` to `0x3F` (R6 `ADDR_W`, R60). -/
def regSpace : Nat := 0x40

/-- The longest host access, in bytes (R63: "`n` in 1..16"). -/
def maxAccess : Nat := 16

/-- BLE service the Transport must target (R5 `SVC_UUID`, R255); no rule of the block uses it. -/
def svcUuid : String := "0000fff0-0000-1000-8000-00805f9b34fb"

/-- BLE characteristic the Transport must target (R5 `CHR_UUID`, R255); no rule of the block uses it. -/
def chrUuid : String := "0000fff3-0000-1000-8000-00805f9b34fb"

end Sys2Proof.Config
end

