-- ==== Sys2Proof/Syntax.lean ====
section
/-! DEFINITION. The nine operations of the opcode map (R94), one constructor per row of spec/opcode_table.json. Operands
are the raw descriptor fields that the operation reads (R96), each at its own width: a brightness is held before its
clamp (R95 (b)), a fraction as its two 16-bit parts (R93). -/

namespace Sys2Proof

/-- One command of the block. -/
inductive Instr where
  /-- Colour to 9-byte frame in FRAME (R121). -/
  | encode (r g b : Byte)
  /-- Colour and brightness to device colour in RES (R134). -/
  | compensate (r g b bri : Byte)
  /-- Hue, saturation, lightness as fractions to colour in RES (R155). -/
  | hsl2rgb (hnum hden snum sden lnum lden : Half)
  /-- One frame of the compensated colour (R184). -/
  | setcolor (r g b bri : Byte)
  /-- Brightness ramp up then down (R200). -/
  | pulse (r g b bri : Byte) (steps : Half) (dur : Word32)
  /-- Fade from brightness `bri` to brightness `bri2` (R201). -/
  | smooth (r g b bri bri2 : Byte) (steps : Half) (dur : Word32)
  /-- On and off blinking: `count` is the STEPS field, `onOff` the DUR field (R202). -/
  | flash (r g b bri : Byte) (count : Half) (onOff : Word32)
  /-- Hue sweep at full saturation and half lightness (R203). -/
  | rainbow (bri : Byte) (steps : Half) (dur : Word32)
  /-- Seven-entry palette three times, then the full colour (R204). -/
  | running (r g b bri : Byte) (steps : Half) (dur : Word32)
  deriving DecidableEq, Repr

end Sys2Proof
end

