-- ==== Sys2Proof/Decode.lean ====
section
/-! DEFINITION. The descriptor formats C, A and H (R90 to R96): the decoder, total on any 16 bytes, and after it the
encoder. Rejection is by the name of the command fault that R97 gives it. -/

namespace Sys2Proof

/-- The command faults, named as CAUSE names them (R31, R240 to R243). The decoder answers only the first two; the other
two are raised by the operations' own operand checks (R97 check 3). -/
inductive CommandFault where
  /-- Byte 0 is not one of the nine opcodes (R240). -/
  | illegalOp
  /-- A byte that must be zero for the operation is not (R241). -/
  | reservedNonzero
  /-- STEPS is 0 in an operation that divides by it (R242). -/
  | zeroSteps
  /-- A fraction of HSL2RGB is outside [0,1] or has denominator 0 (R243). -/
  | badFraction
  deriving DecidableEq, Repr

/-- Byte `i` of a word, byte 0 the least significant: every multi-byte quantity of the register space is little-endian
(R62 (b), R90). -/
def byteAt {w : Nat} (x : BitVec w) (i : Nat) : Byte := x.extractLsb' (8 * i) 8

/-- A 16-bit field from its two bytes, low byte first (R95 (c), (e)). -/
def half (lo hi : Byte) : Half := hi ++ lo

/-- A 32-bit field from its four bytes, low byte first (R95 (d)). -/
def word32 (b0 b1 b2 b3 : Byte) : Word32 := b3 ++ b2 ++ b1 ++ b0

/-- `i`, unless one of the bytes `zeros` of `d` is non-zero (R97 check 2). -/
def guardZero (d : Descriptor) (zeros : List (Fin 16)) (i : Instr) : Except CommandFault Instr :=
  if zeros.all (fun k => d.get k == 0) then .ok i else .error .reservedNonzero

/-- Checks 1 and 2 of R97, in that order: the opcode alone selects the operation and its format (R90, R94); then the
bytes that must be zero for its format (R91 to R93) and for it (R96) are checked. -/
def decode (d : Descriptor) : Except CommandFault Instr :=
  if d[0] = 0x01 then
    guardZero d [4, 5, 6, 7, 8, 9, 10, 11, 12, 13, 14, 15] (.encode d[1] d[2] d[3])
  else if d[0] = 0x02 then
    guardZero d [5, 6, 7, 8, 9, 10, 11, 12, 13, 14, 15] (.compensate d[1] d[2] d[3] d[4])
  else if d[0] = 0x03 then
    guardZero d [1, 2, 3]
      (.hsl2rgb (half d[4] d[5]) (half d[6] d[7]) (half d[8] d[9]) (half d[10] d[11]) (half d[12] d[13])
        (half d[14] d[15]))
  else if d[0] = 0x10 then
    guardZero d [5, 6, 7, 8, 9, 10, 11, 12, 13, 14, 15] (.setcolor d[1] d[2] d[3] d[4])
  else if d[0] = 0x11 then
    guardZero d [5, 12, 13, 14, 15]
      (.pulse d[1] d[2] d[3] d[4] (half d[6] d[7]) (word32 d[8] d[9] d[10] d[11]))
  else if d[0] = 0x12 then
    guardZero d [12, 13, 14, 15]
      (.smooth d[1] d[2] d[3] d[4] d[5] (half d[6] d[7]) (word32 d[8] d[9] d[10] d[11]))
  else if d[0] = 0x13 then
    guardZero d [5, 12, 13, 14, 15]
      (.flash d[1] d[2] d[3] d[4] (half d[6] d[7]) (word32 d[8] d[9] d[10] d[11]))
  else if d[0] = 0x14 then
    guardZero d [1, 2, 3, 5, 12, 13, 14, 15]
      (.rainbow d[4] (half d[6] d[7]) (word32 d[8] d[9] d[10] d[11]))
  else if d[0] = 0x15 then
    guardZero d [5, 12, 13, 14, 15]
      (.running d[1] d[2] d[3] d[4] (half d[6] d[7]) (word32 d[8] d[9] d[10] d[11]))
  else .error .illegalOp

/-- The opcode byte of an operation (R94). -/
def opcode : Instr → Byte
  | .encode _ _ _ => 0x01
  | .compensate _ _ _ _ => 0x02
  | .hsl2rgb _ _ _ _ _ _ => 0x03
  | .setcolor _ _ _ _ => 0x10
  | .pulse _ _ _ _ _ _ => 0x11
  | .smooth _ _ _ _ _ _ _ => 0x12
  | .flash _ _ _ _ _ _ => 0x13
  | .rainbow _ _ _ => 0x14
  | .running _ _ _ _ _ _ => 0x15

/-- Format C: opcode, colour, brightness, eleven zero bytes (R91). -/
def formatC (op r g b bri : Byte) : Descriptor := #v[op, r, g, b, bri, 0, 0, 0, 0, 0, 0, 0, 0, 0, 0, 0]

/-- Format A: opcode, colour, two brightnesses, STEPS, DUR, four zero bytes (R92). -/
def formatA (op r g b bri bri2 : Byte) (steps : Half) (dur : Word32) : Descriptor :=
  #v[op, r, g, b, bri, bri2, byteAt steps 0, byteAt steps 1,
    byteAt dur 0, byteAt dur 1, byteAt dur 2, byteAt dur 3, 0, 0, 0, 0]

/-- Format H: opcode, three zero bytes, six 16-bit fields (R93). -/
def formatH (op : Byte) (hnum hden snum sden lnum lden : Half) : Descriptor :=
  #v[op, 0, 0, 0, byteAt hnum 0, byteAt hnum 1, byteAt hden 0, byteAt hden 1,
    byteAt snum 0, byteAt snum 1, byteAt sden 0, byteAt sden 1, byteAt lnum 0, byteAt lnum 1, byteAt lden 0, byteAt lden 1]

/-- The descriptor of an operation: R100's table, with zero in every byte that it does not name. -/
def encode : Instr → Descriptor
  | .encode r g b => formatC 0x01 r g b 0
  | .compensate r g b bri => formatC 0x02 r g b bri
  | .hsl2rgb hnum hden snum sden lnum lden => formatH 0x03 hnum hden snum sden lnum lden
  | .setcolor r g b bri => formatC 0x10 r g b bri
  | .pulse r g b bri steps dur => formatA 0x11 r g b bri 0 steps dur
  | .smooth r g b bri bri2 steps dur => formatA 0x12 r g b bri bri2 steps dur
  | .flash r g b bri count onOff => formatA 0x13 r g b bri 0 count onOff
  | .rainbow bri steps dur => formatA 0x14 0 0 0 bri 0 steps dur
  | .running r g b bri steps dur => formatA 0x15 r g b bri 0 steps dur

/-- The 16 bytes of a 128-bit word `W`: byte `k` is `W[8*k+7 : 8*k]` (R90). -/
def descriptorOfWord (w : BitVec 128) : Descriptor :=
  #v[byteAt w 0, byteAt w 1, byteAt w 2, byteAt w 3, byteAt w 4, byteAt w 5, byteAt w 6, byteAt w 7,
    byteAt w 8, byteAt w 9, byteAt w 10, byteAt w 11, byteAt w 12, byteAt w 13, byteAt w 14, byteAt w 15]

/-- A descriptor viewed as the 128-bit word `W`, `DESC[0]` its least significant byte (R90). -/
def wordOfDescriptor (d : Descriptor) : BitVec 128 :=
  d[15] ++ d[14] ++ d[13] ++ d[12] ++ d[11] ++ d[10] ++ d[9] ++ d[8] ++
    d[7] ++ d[6] ++ d[5] ++ d[4] ++ d[3] ++ d[2] ++ d[1] ++ d[0]

/-- The descriptor that the low `nbits` bits of `w` stand for, every higher bit zero. -/
def descriptorOfBits (nbits w : Nat) : Descriptor := descriptorOfWord (BitVec.ofNat 128 (w % 2 ^ nbits))

/-- The instruction the decoder reads from the word `w` of `nbits` bits, numbered as the opcode table numbers them (R94). -/
def decodeTableWord (nbits w : Nat) : Option Instr :=
  match decode (descriptorOfBits nbits w) with
  | .ok i => some i
  | .error _ => none

/-- One row of spec/opcode_table.json: a descriptor word `W` is the row's when `W &&& mask = pattern` (R94). -/
structure TableRow where
  opcode : Byte
  pattern : BitVec 128
  mask : BitVec 128
  deriving DecidableEq, Repr

/-- spec/opcode_table.json, its rows in its order, `match` and `mask` digit for digit. -/
def opcodeTable : List TableRow :=
  [⟨0x01, 0x00000000000000000000000000000001, 0xFFFFFFFFFFFFFFFFFFFFFFFF000000FF⟩,
   ⟨0x02, 0x00000000000000000000000000000002, 0xFFFFFFFFFFFFFFFFFFFFFF00000000FF⟩,
   ⟨0x03, 0x00000000000000000000000000000003, 0x000000000000000000000000FFFFFFFF⟩,
   ⟨0x10, 0x00000000000000000000000000000010, 0xFFFFFFFFFFFFFFFFFFFFFF00000000FF⟩,
   ⟨0x11, 0x00000000000000000000000000000011, 0xFFFFFFFF000000000000FF00000000FF⟩,
   ⟨0x12, 0x00000000000000000000000000000012, 0xFFFFFFFF0000000000000000000000FF⟩,
   ⟨0x13, 0x00000000000000000000000000000013, 0xFFFFFFFF000000000000FF00000000FF⟩,
   ⟨0x14, 0x00000000000000000000000000000014, 0xFFFFFFFF000000000000FF00FFFFFFFF⟩,
   ⟨0x15, 0x00000000000000000000000000000015, 0xFFFFFFFF000000000000FF00000000FF⟩]

end Sys2Proof
end

