-- ==== Sys2Proof/Machine/State.lean ====
section
/-! DEFINITION. The state of the block (R20), the inputs that reach it, the reasons a step can stop, and reset (R41). -/

namespace Sys2Proof.Machine

/-- STATE (R26): `Idle → Running → Complete`. Code 3 never occurs (R26), so it has no constructor. -/
inductive SeqState where
  | idle
  | running
  | complete
  deriving DecidableEq, Repr

/-- PHASE (R27): where inside a step the sequencer is. -/
inductive Phase where
  /-- Not in a step. -/
  | none
  /-- First attempt presented, acknowledge requested, answer awaited. -/
  | att1
  /-- Second attempt presented, no acknowledge, answer awaited. -/
  | att2
  /-- The delay is running. -/
  | wait
  deriving DecidableEq, Repr

/-- The Transport's answer to one attempt (R66, R178). -/
inductive Answer where
  | ok
  | failed
  deriving DecidableEq, Repr

/-- The events of TRACE (R39). -/
inductive Event where
  /-- Step index, the nine bytes presented, acknowledge requested, the Transport's answer. -/
  | txAttempt (k : Word32) (frame : Frame) (ack : Bool) (result : Answer)
  /-- Step index whose two attempts failed. -/
  | writeError (k : Word32)
  /-- Step index and the delay waited, in milliseconds. -/
  | wait (k : Word32) (ms : Word32)
  /-- The code of a command fault. -/
  | fault (code : CommandFault)
  deriving DecidableEq, Repr

/-- What reaches the block from outside (R281, R40). One step of the machine consumes one input. -/
inductive Input where
  /-- The host writes `bytes` to ascending addresses from `addr` (R63 `MemWrite`). -/
  | memWrite (addr : Nat) (bytes : List Byte)
  /-- The host begins to read `n` bytes from `addr` (R63 `MemRead`): from here on its bytes can be taken. -/
  | memRead (addr n : Nat)
  /-- The byte of the read in progress at `addr` is taken (R63: a read is `n` independent byte accesses). Any input may come
  between two of them, and any byte may be the earlier one (U13). -/
  | readByte (addr : Nat)
  /-- The Transport answers the outstanding attempt (R174, R175; parameter P1). -/
  | ans (result : Answer)
  /-- The environment reports that the current wait is over (R176; parameter P2). -/
  | tick
  /-- The level of the reset input `rst` from now on (R270). -/
  | rst (asserted : Bool)
  deriving DecidableEq, Repr

/-- The state of the block: R20's list, in its order, then four fields that are the model's own. GAIN, HDR and FTR of that
list are constants (R37, R38): `gainTable`, `header` and `footer`. -/
structure State where
  /-- DESC[0..15], the descriptor the host is preparing (R21). -/
  desc : Descriptor
  /-- L[0..15], the latched descriptor (R23). -/
  latch : Descriptor
  /-- STEP, the program counter: the index of the step being transmitted (R24). -/
  stepIndex : Word32
  /-- NSTEPS, how many steps the latched command generates (R25). -/
  nsteps : Word32
  /-- STATE (R26). -/
  seqState : SeqState
  /-- PHASE (R27). -/
  phase : Phase
  /-- WERR: both attempts of some step failed (R28). -/
  werr : Bool
  /-- FAULT: a command fault was raised (R28). -/
  fault : Bool
  /-- REJ: a host action was refused (R28). -/
  rej : Bool
  /-- CAUSE: the command fault that set FAULT; `none` is code 0 (R31). -/
  cause : Option CommandFault
  /-- DELAY, the delay of every step of the latched command, in milliseconds (R32). -/
  delay : Word32
  /-- WERRCNT, the number of steps whose write failed (R33). -/
  werrcnt : Word32
  /-- LASTERR, the index of the most recent failed step (R33). -/
  lasterr : Word32
  /-- RES[0..2], the result colour (R34). -/
  res : Color
  /-- FRAME[0..8], the last encoded frame (R35). -/
  frame : Frame
  /-- CC[0..2], the compensated-colour latch of FLASH and RUNNING (R36). -/
  cc : Color
  /-- TRACE, every event emitted since reset, oldest first (R39). -/
  trace : List Event
  /-- MODEL'S OWN: the level of the reset input `rst` (R270; released at reset, DESIGN CHOICE, log 6). -/
  rst : Bool
  /-- MODEL'S OWN: what the environment will do next, oldest first; the open parameters P1 and P2 and the host's actions
  (DESIGN CHOICE, log 2). -/
  inputs : List Input
  /-- MODEL'S OWN: the bytes that the last host read has returned so far, each with its address, in the order in which they were
  taken (DESIGN CHOICE, log 7). -/
  hostData : List (Nat × Byte)
  /-- MODEL'S OWN: the addresses whose bytes the host read in progress has still to return (R63; DESIGN CHOICE, log 3). -/
  reading : List Nat
  deriving DecidableEq, Repr

/-- Why the machine stops with a fault. No state that the block can reach from reset meets one. -/
inductive Fault where
  /-- Raised at the end of a wait when the latched descriptor generates no colour for the next step. R173 fixes NSTEPS from
  the latch at launch, so no reachable state meets this. Safe: the model stops where the spec has no behaviour (U14, DEDUCED, log 9). -/
  | noSuchStep
  deriving DecidableEq, Repr

/-- Why the machine refuses an input. -/
inductive Refusal where
  /-- An instruction whose meaning is not written yet. No arm of `exec` answers it. Safe. -/
  | notModelled (mnemonic : String)
  /-- A host access that reaches past address `0x3F`, or whose size is not 1..16: not an access to the block (R63, U7). Safe
  (DESIGN CHOICE, log 4). -/
  | outsideRegisterSpace
  /-- The Transport answers although no attempt is outstanding, which R281 forbids it. Safe
  (DESIGN CHOICE, log 5). -/
  | noAttemptOutstanding
  /-- The end of a wait is reported although no wait is running, which no rule allows (R176, R281). Safe
  (DESIGN CHOICE, log 5). -/
  | noWaitRunning
  /-- `HostPort.takeByte`: a byte is taken that no read in progress has still to return, which is no access of R63. Safe
  (DESIGN CHOICE, log 3). -/
  | byteNotAwaited
  deriving DecidableEq, Repr

/-- The machine right after reset (R41): every register zero, Idle, no event, and nothing arriving from outside. -/
def State.reset : State where
  desc := #v[0, 0, 0, 0, 0, 0, 0, 0, 0, 0, 0, 0, 0, 0, 0, 0]
  latch := #v[0, 0, 0, 0, 0, 0, 0, 0, 0, 0, 0, 0, 0, 0, 0, 0]
  stepIndex := 0
  nsteps := 0
  seqState := .idle
  phase := .none
  werr := false
  fault := false
  rej := false
  cause := none
  delay := 0
  werrcnt := 0
  lasterr := 0
  res := ⟨0, 0, 0⟩
  frame := #v[0, 0, 0, 0, 0, 0, 0, 0, 0]
  cc := ⟨0, 0, 0⟩
  trace := []
  rst := false
  inputs := []
  hostData := []
  reading := []

end Sys2Proof.Machine
end

