-- ==== Sys2Proof/Machine/Flags.lean ====
section
/-! DEFINITION. The codes of STATE, PHASE and CAUSE, the STATUS view and the two level outputs (R26 to R31). No operation
reads a flag (R28), so this is all that is computed from them. -/

namespace Sys2Proof.Machine

/-- The 2-bit code of STATE (R26). -/
def SeqState.code : SeqState → BitVec 2
  | .idle => 0
  | .running => 1
  | .complete => 2

/-- The 2-bit code of PHASE (R27). -/
def Phase.code : Phase → BitVec 2
  | .none => 0
  | .att1 => 1
  | .att2 => 2
  | .wait => 3

/-- The code of a command fault (R31, R240 to R243). -/
def faultCode : CommandFault → Byte
  | .illegalOp => 1
  | .reservedNonzero => 2
  | .zeroSteps => 3
  | .badFraction => 4

/-- CAUSE as the host reads it: 0 where there is no fault (R31). -/
def causeByte : Option CommandFault → Byte
  | .none => 0
  | .some c => faultCode c

/-- A flag as one bit. -/
def flagBit (b : Bool) : BitVec 1 := if b then 1 else 0

/-- STATUS: bits 1:0 STATE, 2 WERR, 3 FAULT, 4 REJ, 7:5 zero (R29). -/
def statusByte (s : State) : Byte :=
  (0 : BitVec 3) ++ flagBit s.rej ++ flagBit s.fault ++ flagBit s.werr ++ s.seqState.code

/-- PHASE as the host reads it: bits 1:0, bits 7:2 zero (R61). -/
def phaseByte (s : State) : Byte := (0 : BitVec 6) ++ s.phase.code

/-- The level output `busy` (R29). -/
def busy (s : State) : Bool := decide (s.seqState = .running)

/-- The level output `done` (R29). -/
def done (s : State) : Bool := decide (s.seqState = .complete)

end Sys2Proof.Machine
end

