-- ==== Sys2Proof/Machine/FrameEncoder.lean ====
section
/-! DEFINITION. The frame encoder and ENCODE (R120, R121). -/

namespace Sys2Proof.Machine

/-- HDR, frame bytes 0 to 3 (R5, R38). -/
def header : Vector Byte 4 := #v[0x7E, 0x07, 0x05, 0x03]

/-- FTR, frame bytes 7 and 8 (R5, R38). -/
def footer : Vector Byte 2 := #v[0x10, 0xEF]

/-- `encode(c)` of R120: the header, the three channels unchanged, the footer. -/
def encodeFrame (c : Color) : Frame :=
  #v[header[0], header[1], header[2], header[3], c.r, c.g, c.b, footer[0], footer[1]]

/-- ENCODE (R121): FRAME takes the frame of the colour as given; nothing else changes, nothing is sent. -/
def execEncode (r g b : Byte) (s : State) : Host.Outcome State Fault Refusal :=
  .next { s with frame := encodeFrame ⟨r, g, b⟩ }

end Sys2Proof.Machine
end

