-- ==== Sys2Proof/Machine/Operands.lean ====
section
/-! DEFINITION. Operand assembly and the arithmetic primitives of R7 to R12: the clamp, round half up, the brightness
quantiser, exact fractions, and the operand checks of R97 (check 3). -/

namespace Sys2Proof.Machine

/-- A BrightnessPercent from a raw 8-bit operand: `min(b, 100)` (R9, R95 (b)). -/
def clampb (b : Byte) : Nat := min b.toNat 100

/-- Round half up of `n / d`: `(2*n + d) // (2*d)` (R8). Every caller has `d > 0`. -/
def rhu (n d : Nat) : Nat := (2 * n + d) / (2 * d)

/-- The brightness quantiser (R181). -/
def qbright (num den : Nat) : Nat := rhu num den

/-- STEPS may be divided by (R97 check 3, R242). -/
def stepsLegal (steps : Half) : Bool := steps != 0

/-- A numerator and denominator give a number in [0,1] (R97 check 3, R243). -/
def fractionLegal (num den : Half) : Bool := den != 0 && decide (num.toNat ≤ den.toNat)

end Sys2Proof.Machine

namespace Sys2Proof

/-- An integer as a fraction. -/
def Frac.ofNat (n : Nat) : Frac := ⟨n, 1⟩

/-- The fraction of two 16-bit operands (R93, R95 (e)). -/
def Frac.ofFields (num den : Half) : Frac := ⟨num.toNat, den.toNat⟩

def Frac.add (x y : Frac) : Frac := ⟨x.num * y.den + y.num * x.den, x.den * y.den⟩

def Frac.sub (x y : Frac) : Frac := ⟨x.num * y.den - y.num * x.den, x.den * y.den⟩

def Frac.mul (x y : Frac) : Frac := ⟨x.num * y.num, x.den * y.den⟩

/-- `x < y`, for positive denominators, by cross multiplication. -/
def Frac.lt (x y : Frac) : Bool := decide (x.num * y.den < y.num * x.den)

/-- Round half up of a fraction that is not negative (R8). -/
def Frac.rhu (x : Frac) : Nat := Machine.rhu x.num.toNat x.den

end Sys2Proof
end

