-- ==== Sys2Proof/Machine/Ops.lean ====
section
/-! DEFINITION. The shared operations: emitting an event, taking a command fault (R244), logging a write error (R246),
launching a sequence and beginning a step (R173), and the host's view of the registers (R61). There is no return from a
fault: "no trap handler, hence no return-from-trap operation" (R251). -/

namespace Sys2Proof.Machine

/-- Append an event to TRACE (R39). -/
def emit (e : Event) (s : State) : State := { s with trace := s.trace ++ [e] }

/-- `raise Fault(code)`, the command-fault entry (R244): CAUSE, FAULT, NSTEPS, STATE, PHASE and the event; every other
register keeps its value. The fault is taken, a next state (DEDUCED, log 1). -/
def raiseFault (c : CommandFault) (s : State) : State :=
  emit (.fault c) { s with cause := some c, fault := true, nsteps := 0, seqState := .complete, phase := .none }

/-- `log WriteError(k)`, the write-error entry (R246). -/
def logWriteError (k : Word32) (s : State) : State :=
  emit (.writeError k) { s with werr := true, werrcnt := s.werrcnt + 1, lasterr := k }

/-- `BeginStep()` for the step's colour `c` (R173): RES, FRAME, and the first attempt is presented. -/
def beginStep (c : Color) (s : State) : State :=
  { s with res := c, frame := encodeFrame c, phase := .att1 }

/-- The launch of a sequence of `n` steps, each with delay `d`, whose step 0 has colour `c` (R173). A sequence of no step
is over at once (only FLASH with count 0). -/
def launch (n d : Nat) (c : Color) (s : State) : State :=
  let s := { s with nsteps := BitVec.ofNat 32 n, delay := BitVec.ofNat 32 d, stepIndex := 0 }
  if BitVec.ofNat 32 n = 0 then { s with seqState := .complete, phase := .none }
  else beginStep c { s with seqState := .running }

/-- CC takes the once-compensated colour (R36, R173). -/
def latchColour (c : Color) (s : State) : State := { s with cc := c }

/-- The byte that the host reads at address `a` (R61). Write-only and reserved addresses read 0 (R30, R63). -/
def regByte (a : Nat) (s : State) : Byte :=
  if h : a < 16 then s.desc[a]
  else if a = 0x10 then 0
  else if a = 0x11 then statusByte s
  else if a = 0x12 then causeByte s.cause
  else if a = 0x13 then phaseByte s
  else if a < 0x18 then byteAt s.stepIndex (a - 0x14)
  else if a < 0x1C then byteAt s.nsteps (a - 0x18)
  else if a < 0x20 then byteAt s.delay (a - 0x1C)
  else if a < 0x24 then byteAt s.werrcnt (a - 0x20)
  else if a < 0x28 then byteAt s.lasterr (a - 0x24)
  else if a = 0x28 then s.res.r
  else if a = 0x29 then s.res.g
  else if a = 0x2A then s.res.b
  else if a = 0x2B then 0
  else if h : a - 0x2C < 9 then s.frame[a - 0x2C]
  else if a = 0x35 then s.cc.r
  else if a = 0x36 then s.cc.g
  else if a = 0x37 then s.cc.b
  else 0

/-- What the Transport port presents: FRAME and the acknowledge bit while an attempt is outstanding (R66, R173, R174). -/
def transportPort (s : State) : Option (Frame × Bool) :=
  match s.phase with
  | .none => none
  | .att1 => some (s.frame, true)
  | .att2 => some (s.frame, false)
  | .wait => none

/-- What the delay port requests: DELAY milliseconds while a wait is running (R174, R179). -/
def delayPort (s : State) : Option Word32 :=
  match s.phase with
  | .none => none
  | .att1 => none
  | .att2 => none
  | .wait => some s.delay

end Sys2Proof.Machine
end

