-- ==== Sys2Proof/Machine/Converter.lean ====
section
/-! DEFINITION. The HSL-to-RGB converter and HSL2RGB (R150 to R155), in exact fractions. -/

namespace Sys2Proof.Machine

/-- `hue2rgb(p, q, t)` (R152): wrap `t` into [0,1), then the four branches of the six angular segments. -/
def hue2rgb (p q t : Frac) : Frac :=
  let t := if t.lt (Frac.ofNat 0) then t.add (Frac.ofNat 1) else t
  let t := if t.lt (Frac.ofNat 1) then t else t.sub (Frac.ofNat 1)
  if t.lt ⟨1, 6⟩ then p.add (((q.sub p).mul (Frac.ofNat 6)).mul t)
  else if t.lt ⟨1, 2⟩ then q
  else if t.lt ⟨2, 3⟩ then p.add (((q.sub p).mul (Frac.sub ⟨2, 3⟩ t)).mul (Frac.ofNat 6))
  else p

/-- One output channel: `rhu(255 * x)` (R153). -/
def channelByte (x : Frac) : Byte := BitVec.ofNat 8 (x.mul (Frac.ofNat 255)).rhu

/-- `hslToRgb(h, s, l)` (R151). -/
def hslToRgb (h s l : Frac) : Color :=
  if s.num = 0 then ⟨channelByte l, channelByte l, channelByte l⟩
  else
    let q := if l.lt ⟨1, 2⟩ then l.mul ((Frac.ofNat 1).add s) else (l.add s).sub (l.mul s)
    let p := ((Frac.ofNat 2).mul l).sub q
    ⟨channelByte (hue2rgb p q (h.add ⟨1, 3⟩)), channelByte (hue2rgb p q h),
      channelByte (hue2rgb p q (h.sub ⟨1, 3⟩))⟩

/-- HSL2RGB (R155): outside the domain the command fault BAD_FRACTION; inside it RES takes the converted colour, which is
not compensated. -/
def execHsl2rgb (hnum hden snum sden lnum lden : Half) (s : State) : Host.Outcome State Fault Refusal :=
  if fractionLegal hnum hden && fractionLegal snum sden && fractionLegal lnum lden then
    .next { s with
      res := hslToRgb (Frac.ofFields hnum hden) (Frac.ofFields snum sden) (Frac.ofFields lnum lden) }
  else .next (raiseFault .badFraction s)

end Sys2Proof.Machine
end

