-- ==== Sys2Proof/Machine/Compensator.lean ====
section
/-! DEFINITION. The brightness compensator: the gain look-up table, the scaler, and COMPENSATE (R130 to R134). -/

namespace Sys2Proof.Machine

/-- GAIN, entries 0 to 49, ten a row as R133 lists them. -/
def gainTableLow : List (BitVec 15) :=
  [100, 327, 554, 781, 1008, 1235, 1462, 1689, 1916, 2143] ++
  [2370, 2597, 2824, 3051, 3278, 3505, 3732, 3959, 4186, 4413] ++
  [4640, 4867, 5094, 5321, 5548, 5775, 6002, 6229, 6456, 6683] ++
  [6910, 7137, 7364, 7591, 7818, 8045, 8272, 8499, 8726, 8953] ++
  [9180, 9407, 9634, 9861, 10088, 10315, 10542, 10769, 10996, 11223]

/-- GAIN, entries 50 to 100. -/
def gainTableHigh : List (BitVec 15) :=
  [11450, 11677, 11904, 12131, 12358, 12585, 12812, 13039, 13266, 13493] ++
  [13720, 13947, 14174, 14401, 14628, 14855, 15082, 15309, 15536, 15763] ++
  [15990, 16217, 16444, 16671, 16898, 17125, 17352, 17579, 17806, 18033] ++
  [18260, 18487, 18714, 18941, 19168, 19395, 19622, 19849, 20076, 20303] ++
  [20530, 20757, 20984, 21211, 21438, 21665, 21892, 22119, 22346, 22573] ++
  [22800]

/-- GAIN[0..100], 101 entries of 15 bits (R37, R133). -/
def gainTable : List (BitVec 15) := gainTableLow ++ gainTableHigh

/-- `GAIN[b]`; the index is a brightness percent, so at most 100 (R37). -/
def gain (b : Nat) : Nat := (gainTable.getD (min b 100) 0).toNat

/-- The scaler: one multiplication, one addition, one division, a floor of 1 (R132). -/
def scale (v b : Nat) : Nat := max 1 ((v * gain b + 12750) / 25500)

/-- One lane (R131 step 3): a channel that is off stays off; any other goes through the scaler. -/
def channel (v : Byte) (b : Nat) : Byte := if v = 0 then 0 else BitVec.ofNat 8 (scale v.toNat b)

/-- `compensate(c, b)` for a brightness percent `b`: brightness 0 first, then the three lanes (R131, R136). -/
def compensate (c : Color) (b : Nat) : Color :=
  if b = 0 then Color.black else ⟨channel c.r b, channel c.g b, channel c.b b⟩

/-- COMPENSATE (R134): RES takes the device colour; nothing else changes, nothing is sent. -/
def execCompensate (r g b bri : Byte) (s : State) : Host.Outcome State Fault Refusal :=
  .next { s with res := compensate ⟨r, g, b⟩ (clampb bri) }

end Sys2Proof.Machine
end

