-- ==== Sys2Proof/Machine/Sequencer.lean ====
section
/-! DEFINITION. SETCOLOR, the "single 'set color' primitive" (R184), and the delay calculator (R180). -/

namespace Sys2Proof.Machine

/-- The delay of SMOOTH, RAINBOW and RUNNING: `DUR // STEPS` (R180). Called with `steps ≠ 0`. -/
def stepDelay (steps : Half) (dur : Word32) : Nat := dur.toNat / steps.toNat

/-- SETCOLOR's only colour (R184). -/
def setcolorColour (c : Color) (bri : Byte) : Color := compensate c (clampb bri)

/-- SETCOLOR (R184): launch one step with delay 0. -/
def execSetcolor (r g b bri : Byte) (s : State) : Host.Outcome State Fault Refusal :=
  .next (launch 1 0 (setcolorColour ⟨r, g, b⟩ bri) s)

end Sys2Proof.Machine
end

