-- ==== Sys2Proof/Machine/Animations.lean ====
section
/-! DEFINITION. The five animation operations (R200 to R204): for each its number of steps, the colour of step `k`, its
delay (the three functions of R170), and its launch. -/

namespace Sys2Proof.Machine

/-- `2*S + 1` (R200). -/
def pulseSteps (steps : Half) : Nat := 2 * steps.toNat + 1

/-- `i(k)`: up to `S`, then down again (R200). -/
def pulseIndex (steps : Half) (k : Nat) : Nat := if k < steps.toNat then k else 2 * steps.toNat - k

/-- `bri(k) = qbright(i(k) * Bt, S)` (R200). -/
def pulseBrightness (bri : Byte) (steps : Half) (k : Nat) : Nat :=
  qbright (pulseIndex steps k * clampb bri) steps.toNat

/-- PULSE's colour of step `k` (R200). -/
def pulseColour (c : Color) (bri : Byte) (steps : Half) (k : Nat) : Color :=
  compensate c (pulseBrightness bri steps k)

/-- `T // (2*S)` (R180, R200). -/
def pulseDelay (steps : Half) (dur : Word32) : Nat := dur.toNat / (2 * steps.toNat)

/-- PULSE (R200). -/
def execPulse (r g b bri : Byte) (steps : Half) (dur : Word32) (s : State) : Host.Outcome State Fault Refusal :=
  if stepsLegal steps then
    .next (launch (pulseSteps steps) (pulseDelay steps dur) (pulseColour ⟨r, g, b⟩ bri steps 0) s)
  else .next (raiseFault .zeroSteps s)

/-- `S + 1` (R201). -/
def smoothSteps (steps : Half) : Nat := steps.toNat + 1

/-- `bri(k) = qbright(Fb*(S - k) + Tb*k, S)` (R201). -/
def smoothBrightness (bri bri2 : Byte) (steps : Half) (k : Nat) : Nat :=
  qbright (clampb bri * (steps.toNat - k) + clampb bri2 * k) steps.toNat

/-- SMOOTH's colour of step `k` (R201). -/
def smoothColour (c : Color) (bri bri2 : Byte) (steps : Half) (k : Nat) : Color :=
  compensate c (smoothBrightness bri bri2 steps k)

/-- SMOOTH (R201). -/
def execSmooth (r g b bri bri2 : Byte) (steps : Half) (dur : Word32) (s : State) : Host.Outcome State Fault Refusal :=
  if stepsLegal steps then
    .next (launch (smoothSteps steps) (stepDelay steps dur) (smoothColour ⟨r, g, b⟩ bri bri2 steps 0) s)
  else .next (raiseFault .zeroSteps s)

/-- `2*N` (R202). -/
def flashSteps (count : Half) : Nat := 2 * count.toNat

/-- FLASH's colour of step `k`: CC on even steps, literal black on odd ones (R202). -/
def flashColour (cc : Color) (k : Nat) : Color := if k % 2 = 0 then cc else Color.black

/-- The colour FLASH latches into CC at launch (R202). -/
def flashLatch (c : Color) (bri : Byte) : Color := compensate c (clampb bri)

/-- FLASH (R202): CC first (R173), then the launch; a count of 0 is over at once. -/
def execFlash (r g b bri : Byte) (count : Half) (onOff : Word32) (s : State) : Host.Outcome State Fault Refusal :=
  .next (launch (flashSteps count) onOff.toNat (flashColour (flashLatch ⟨r, g, b⟩ bri) 0)
    (latchColour (flashLatch ⟨r, g, b⟩ bri) s))

/-- `S` (R203). -/
def rainbowSteps (steps : Half) : Nat := steps.toNat

/-- RAINBOW's colour of step `k`: hue `k/S`, saturation 1, lightness 1/2, converted and then compensated (R203). -/
def rainbowColour (bri : Byte) (steps : Half) (k : Nat) : Color :=
  compensate (hslToRgb ⟨k, steps.toNat⟩ (Frac.ofNat 1) ⟨1, 2⟩) (clampb bri)

/-- RAINBOW (R203). -/
def execRainbow (bri : Byte) (steps : Half) (dur : Word32) (s : State) : Host.Outcome State Fault Refusal :=
  if stepsLegal steps then
    .next (launch (rainbowSteps steps) (stepDelay steps dur) (rainbowColour bri steps 0) s)
  else .next (raiseFault .zeroSteps s)

/-- Entries of the palette (R5 `PALETTE_LEN`). -/
def paletteLen : Nat := 7

/-- Times the palette is cycled (R5 `PALETTE_CYCLES`). -/
def paletteCycles : Nat := 3

/-- `3*7 + 1 = 22` (R204, R5 `RUNNING_FRAMES`). -/
def runningSteps : Nat := paletteCycles * paletteLen + 1

/-- The palette of a compensated colour: lane masks, in R204's order R, G, B, R+G, G+B, R+B, R+G+B. -/
def palette (cc : Color) (j : Nat) : Color :=
  match j with
  | 0 => ⟨cc.r, 0, 0⟩
  | 1 => ⟨0, cc.g, 0⟩
  | 2 => ⟨0, 0, cc.b⟩
  | 3 => ⟨cc.r, cc.g, 0⟩
  | 4 => ⟨0, cc.g, cc.b⟩
  | 5 => ⟨cc.r, 0, cc.b⟩
  | _ => cc

/-- RUNNING's colour of step `k`: the palette three times, then the full colour (R204). -/
def runningColour (cc : Color) (k : Nat) : Color :=
  if k < paletteCycles * paletteLen then palette cc (k % paletteLen) else cc

/-- The colour RUNNING latches into CC at launch (R204). -/
def runningLatch (c : Color) (bri : Byte) : Color := compensate c (clampb bri)

/-- RUNNING (R204): CC first (R173), then the launch; STEPS paces the delay only. -/
def execRunning (r g b bri : Byte) (steps : Half) (dur : Word32) (s : State) : Host.Outcome State Fault Refusal :=
  if stepsLegal steps then
    .next (launch runningSteps (stepDelay steps dur) (runningColour (runningLatch ⟨r, g, b⟩ bri) 0)
      (latchColour (runningLatch ⟨r, g, b⟩ bri) s))
  else .next (raiseFault .zeroSteps s)

end Sys2Proof.Machine
end

