-- ==== Sys2Proof/Machine/Dispatch.lean ====
section
/-! DEFINITION. One arm per operation: what START does with a decoded command (R171 to R173). -/

namespace Sys2Proof.Machine

def exec (i : Instr) (s : State) : Host.Outcome State Fault Refusal :=
  match i with
  | .encode r g b => Sys2Proof.Machine.execEncode r g b s
  | .compensate r g b bri => Sys2Proof.Machine.execCompensate r g b bri s
  | .hsl2rgb hnum hden snum sden lnum lden => Sys2Proof.Machine.execHsl2rgb hnum hden snum sden lnum lden s
  | .setcolor r g b bri => Sys2Proof.Machine.execSetcolor r g b bri s
  | .pulse r g b bri steps dur => Sys2Proof.Machine.execPulse r g b bri steps dur s
  | .smooth r g b bri bri2 steps dur => Sys2Proof.Machine.execSmooth r g b bri bri2 steps dur s
  | .flash r g b bri count onOff => Sys2Proof.Machine.execFlash r g b bri count onOff s
  | .rainbow bri steps dur => Sys2Proof.Machine.execRainbow bri steps dur s
  | .running r g b bri steps dur => Sys2Proof.Machine.execRunning r g b bri steps dur s

end Sys2Proof.Machine
end

