-- ==== Sys2Proof/Machine/Generator.lean ====
section
/-! DEFINITION. The generator of a latched command (R170): how many steps, the colour of step `k`, the delay. -/

namespace Sys2Proof.Machine

/-- `nsteps(L)` (R170, R206); a function operation generates no step. -/
def seqSteps : Instr → Nat
  | .encode _ _ _ => 0
  | .compensate _ _ _ _ => 0
  | .hsl2rgb _ _ _ _ _ _ => 0
  | .setcolor _ _ _ _ => 1
  | .pulse _ _ _ _ steps _ => pulseSteps steps
  | .smooth _ _ _ _ _ steps _ => smoothSteps steps
  | .flash _ _ _ _ count _ => flashSteps count
  | .rainbow _ steps _ => rainbowSteps steps
  | .running _ _ _ _ _ _ => runningSteps

/-- `color(L, k)`, given CC (R170); none for a function operation. -/
def seqColour (cc : Color) (k : Nat) : Instr → Option Color
  | .encode _ _ _ => none
  | .compensate _ _ _ _ => none
  | .hsl2rgb _ _ _ _ _ _ => none
  | .setcolor r g b bri => some (setcolorColour ⟨r, g, b⟩ bri)
  | .pulse r g b bri steps _ => some (pulseColour ⟨r, g, b⟩ bri steps k)
  | .smooth r g b bri bri2 steps _ => some (smoothColour ⟨r, g, b⟩ bri bri2 steps k)
  | .flash _ _ _ _ _ _ => some (flashColour cc k)
  | .rainbow bri steps _ => some (rainbowColour bri steps k)
  | .running _ _ _ _ _ _ => some (runningColour cc k)

/-- `delay(L)` (R180); 0 for a function operation, which never requests a wait. -/
def seqDelay : Instr → Nat
  | .encode _ _ _ => 0
  | .compensate _ _ _ _ => 0
  | .hsl2rgb _ _ _ _ _ _ => 0
  | .setcolor _ _ _ _ => 0
  | .pulse _ _ _ _ steps dur => pulseDelay steps dur
  | .smooth _ _ _ _ _ steps dur => stepDelay steps dur
  | .flash _ _ _ _ _ onOff => onOff.toNat
  | .rainbow _ steps dur => stepDelay steps dur
  | .running _ _ _ _ steps dur => stepDelay steps dur

/-- What launch latches into CC, where it does (R36, R173). -/
def seqLatch : Instr → Option Color
  | .encode _ _ _ => none
  | .compensate _ _ _ _ => none
  | .hsl2rgb _ _ _ _ _ _ => none
  | .setcolor _ _ _ _ => none
  | .pulse _ _ _ _ _ _ => none
  | .smooth _ _ _ _ _ _ _ => none
  | .flash r g b bri _ _ => some (flashLatch ⟨r, g, b⟩ bri)
  | .rainbow _ _ _ => none
  | .running r g b bri _ _ => some (runningLatch ⟨r, g, b⟩ bri)

/-- The colour of step `k`, for the steps that the command has: `0 ≤ k < nsteps(L)` (R170). -/
def stepColour (i : Instr) (cc : Color) (k : Nat) : Option Color :=
  if k < seqSteps i then seqColour cc k i else none

/-- `color(L, STEP)`, read from the latch (R173, R23). -/
def latchedColour (s : State) : Option Color :=
  match decode s.latch with
  | .ok i => stepColour i s.cc s.stepIndex.toNat
  | .error _ => none

end Sys2Proof.Machine
end

