-- ==== Sys2Proof/Machine/HostPort.lean ====
section
/-! DEFINITION. The host register port: START (R171), byte and multi-byte accesses (R63, R64), and the reset input (R270). -/

namespace Sys2Proof.Machine

/-- START (R171): refused outside Idle; otherwise latch the descriptor, decode the latch, and perform the operation or take
the command fault. -/
def start (s : State) : Host.Outcome State Fault Refusal :=
  if s.seqState = .idle then
    let s := { s with latch := s.desc }
    match decode s.latch with
    | .ok i => exec i s
    | .error c => .next (raiseFault c s)
  else .next { s with rej := true }

/-- A byte written to `DESC[k]`: stored in Idle, refused with REJ otherwise (R64 (a), (b)). -/
def writeDesc (k : Nat) (v : Byte) (s : State) : State :=
  if s.seqState = .idle then { s with desc := s.desc.setIfInBounds k v } else { s with rej := true }

/-- A byte written to `CTRL`: bit 0 set is START, bit 0 clear does nothing, bits 7:1 are ignored (R30, R64 (c), (d)). -/
def writeCtrl (v : Byte) (s : State) : Host.Outcome State Fault Refusal :=
  if v.getLsbD 0 then start s else .next s

/-- One byte written by the host (R64). While `rst` is asserted the state stays that of reset (R270). -/
def writeByte (a : Nat) (v : Byte) (s : State) : Host.Outcome State Fault Refusal :=
  if s.rst then .next s
  else if a < 0x10 then .next (writeDesc a v s)
  else if a = 0x10 then writeCtrl v s
  else .next s

/-- The bytes of one write, in ascending address order (R63), delivered together (DESIGN CHOICE, log 3). -/
def writeBytes (a : Nat) (vs : List Byte) (s : State) : Host.Outcome State Fault Refusal :=
  match vs with
  | [] => .next s
  | v :: rest =>
    match writeByte a v s with
    | .next t => writeBytes (a + 1) rest t
    | .fault f => .fault f
    | .refused r => .refused r

/-- The accesses that reach the block: `n` in 1..16 and `addr + n <= 0x40` (R63). -/
def accessInSpace (a n : Nat) : Bool := decide (1 ≤ n) && decide (n ≤ Config.maxAccess) && decide (a + n ≤ Config.regSpace)

/-- `MemWrite(addr, n, v)`, `n` the number of bytes (R63). -/
def hostWrite (a : Nat) (vs : List Byte) (s : State) : Host.Outcome State Fault Refusal :=
  if accessInSpace a vs.length then writeBytes a vs s else .refused .outsideRegisterSpace

/-- `MemRead(addr, n)` begins (R63): no register changes (R65), and its `n` bytes are now to be taken. A read already in
progress is given up (DESIGN CHOICE, log 3). -/
def hostRead (a n : Nat) (s : State) : Host.Outcome State Fault Refusal :=
  if accessInSpace a n then .next { s with hostData := [], reading := List.range' a n } else .refused .outsideRegisterSpace

/-- The byte at `a` of the read in progress, as its register stands now (R63, R69). What arrived since another byte was taken
may have changed it, so a read of several bytes can mix the bytes of two values (R277, U13). -/
def takeByte (a : Nat) (s : State) : Host.Outcome State Fault Refusal :=
  if a ∈ s.reading then .next { s with hostData := s.hostData ++ [(a, regByte a s)], reading := s.reading.erase a }
  else .refused .byteNotAwaited

/-- Every register at its reset value (R41), the reset input at level `b`. What the host has been given and is
reading, and what the environment will do next, are not the block's. -/
def resetBlock (b : Bool) (s : State) : State :=
  { State.reset with rst := b, inputs := s.inputs, hostData := s.hostData, reading := s.reading }

/-- The reset input takes level `b` (R270): level-sensitive, so the state is that of R41 from the assertion to the release;
a release where nothing was asserted changes nothing (DEDUCED, log 6). -/
def setReset (b : Bool) (s : State) : State := if b || s.rst then resetBlock b s else s

end Sys2Proof.Machine
end

