-- ==== Sys2Proof/Machine/MicroSteps.lean ====
section
/-! DEFINITION. The three micro-steps of a step (R174 to R176), each enabled by an input from outside. -/

namespace Sys2Proof.Machine

/-- Micro-step ATT1 with answer `r` (R174): record the attempt; go on to the wait, or present the frame again. -/
def answerFirst (r : Answer) (s : State) : State :=
  match r with
  | .ok => emit (.txAttempt s.stepIndex s.frame true .ok) { s with phase := .wait }
  | .failed => emit (.txAttempt s.stepIndex s.frame true .failed) { s with phase := .att2 }

/-- Micro-step ATT2 with answer `r` (R175): record the attempt, log a write error if it failed too, go on to the wait. -/
def answerSecond (r : Answer) (s : State) : State :=
  match r with
  | .ok => emit (.txAttempt s.stepIndex s.frame false .ok) { s with phase := .wait }
  | .failed => logWriteError s.stepIndex (emit (.txAttempt s.stepIndex s.frame false .failed) { s with phase := .wait })

/-- The Transport answers (R174, R175): accepted only by an outstanding attempt. -/
def transportAnswer (r : Answer) (s : State) : Host.Outcome State Fault Refusal :=
  if s.seqState = .running then
    match s.phase with
    | .att1 => .next (answerFirst r s)
    | .att2 => .next (answerSecond r s)
    | .none => .refused .noAttemptOutstanding
    | .wait => .refused .noAttemptOutstanding
  else .refused .noAttemptOutstanding

/-- The wait is recorded and STEP moves on (R176). -/
def endWait (s : State) : State :=
  { s with trace := s.trace ++ [.wait s.stepIndex s.delay], stepIndex := s.stepIndex + 1 }

/-- Micro-step WAIT and advance (R176): after the last step the run is over, otherwise the next step begins. -/
def advance (s : State) : Host.Outcome State Fault Refusal :=
  if s.stepIndex + 1 = s.nsteps then .next { endWait s with seqState := .complete, phase := .none }
  else
    match latchedColour (endWait s) with
    | some c => .next (beginStep c (endWait s))
    | none => .fault .noSuchStep

/-- The end of a wait is reported (R176): accepted only by a running wait. -/
def waitOver (s : State) : Host.Outcome State Fault Refusal :=
  if s.seqState = .running then
    match s.phase with
    | .wait => advance s
    | .none => .refused .noWaitRunning
    | .att1 => .refused .noWaitRunning
    | .att2 => .refused .noWaitRunning
  else .refused .noWaitRunning

end Sys2Proof.Machine
end

