-- ==== Sys2Proof/Machine/Step.lean ====
section
/-! DEFINITION. One step of the machine: the next input, if there is one, reaches the block. -/

namespace Sys2Proof.Machine

/-- One input reaches the block. -/
def deliver (i : Input) (s : State) : Host.Outcome State Fault Refusal :=
  match i with
  | .memWrite addr bytes => hostWrite addr bytes s
  | .memRead addr n => hostRead addr n s
  | .readByte a => takeByte a s
  | .ans r => transportAnswer r s
  | .tick => waitOver s
  | .rst b => .next (setReset b s)

/-- One step. With no input the block does not move: an unanswered attempt or an unending wait lasts (R280). -/
def step (s : State) : Host.Outcome State Fault Refusal :=
  match s.inputs with
  | [] => .next s
  | i :: rest => deliver i { s with inputs := rest }

/-- `s` with the descriptor of the word `w` prepared in DESC and the host about to write 1 to CTRL, the block out of reset and
Idle, so that the next step starts that command (DEDUCED, log 8). -/
def State.withFetchWord (s : State) (nbits w : Nat) : State :=
  { s with
    desc := descriptorOfBits nbits w
    seqState := .idle
    phase := .none
    rst := false
    inputs := .memWrite 0x10 [1] :: s.inputs }

end Sys2Proof.Machine
end

