-- ==== Sys2Proof/Machine/Reference.lean ====
section
/-! DEFINITION. The formulas that the spec writes over the rationals (R7, R8, R131, R151 to R153), as it writes them. The
machine runs their integer and fraction forms; statements compare the two. No step of the machine uses this file. -/

namespace Sys2Proof.Reference

/-- `rhu(q) = floor(q + 1/2)` for a rational `q ≥ 0` (R8). -/
def roundHalfUp (q : ℚ) : ℕ := (q + 1 / 2).floor.toNat

/-- One lane of the compensator for a brightness above 0 (R131 step 3). -/
def lane (v b : ℕ) : ℕ :=
  if v = 0 then 0 else max 1 (roundHalfUp ((v / 255 : ℚ) * (1 + (b / 100 : ℚ) * 227)))

/-- `t` moved into [0,1) (R152: "wrap `t` into [0,1) by ±1 before segment selection"). -/
def wrapHue (t : ℚ) : ℚ :=
  let t := if t < 0 then t + 1 else t
  if 1 ≤ t then t - 1 else t

/-- `hue2rgb(p, q, t)` (R152), its four branches on the wrapped `t`. -/
def segment (p q t : ℚ) : ℚ :=
  if wrapHue t < 1 / 6 then p + (q - p) * 6 * wrapHue t
  else if wrapHue t < 1 / 2 then q
  else if wrapHue t < 2 / 3 then p + (q - p) * (2 / 3 - wrapHue t) * 6
  else p

/-- `q` of R151. -/
def upper (s l : ℚ) : ℚ := if l < 1 / 2 then l * (1 + s) else l + s - l * s

/-- One channel of R151 before rounding, `offset` being 1/3, 0 or -1/3 for red, green, blue. -/
def hslChannel (h s l offset : ℚ) : ℚ :=
  if s = 0 then l else segment (2 * l - upper s l) (upper s l) (h + offset)

/-- The value of a fraction. -/
def value (x : Frac) : ℚ := x.num / x.den

end Sys2Proof.Reference
end

