-- ==== Sys2Proof/WellFormed.lean ====
section
/-! DEFINITION. Which terms of `Instr` are legal commands: those that pass the operand checks of R97 (check 3). Every
term has an encoding and decodes back, legal or not; one that is not well formed raises a command fault when started. -/

namespace Sys2Proof

/-- A step count that may be divided by (R97 check 3, R242). -/
def stepsOk (steps : Half) : Bool := steps != 0

/-- A fraction in the domain [0,1]: a non-zero denominator, no smaller than the numerator (R93, R243). -/
def fractionOk (num den : Half) : Bool := den != 0 && decide (num.toNat ≤ den.toNat)

/-- The operand checks of R97 (check 3), per operation. FLASH checks nothing: a count of 0 is legal. -/
def Instr.wellFormed : Instr → Bool
  | .encode _ _ _ => true
  | .compensate _ _ _ _ => true
  | .hsl2rgb hnum hden snum sden lnum lden => fractionOk hnum hden && fractionOk snum sden && fractionOk lnum lden
  | .setcolor _ _ _ _ => true
  | .pulse _ _ _ _ steps _ => stepsOk steps
  | .smooth _ _ _ _ _ steps _ => stepsOk steps
  | .flash _ _ _ _ _ _ => true
  | .rainbow _ steps _ => stepsOk steps
  | .running _ _ _ _ steps _ => stepsOk steps

/-- The operations that send frames (R94 class "sequence"). -/
def Instr.isSequence : Instr → Bool
  | .encode _ _ _ => false
  | .compensate _ _ _ _ => false
  | .hsl2rgb _ _ _ _ _ _ => false
  | .setcolor _ _ _ _ => true
  | .pulse _ _ _ _ _ _ => true
  | .smooth _ _ _ _ _ _ _ => true
  | .flash _ _ _ _ _ _ => true
  | .rainbow _ _ _ => true
  | .running _ _ _ _ _ _ => true

end Sys2Proof
end

