-- ==== Sys2Proof/Safety.lean ====
section
/-! DEFINITION. The terms that statements use: feeding inputs to the machine, what a step of a sequence does to TRACE, when a
run has ended well, and the invariants that every step keeps. -/

namespace Sys2Proof.Safety

open Sys2Proof.Machine

/-- Run the machine on `inputs`, one step for each, replacing whatever was still to come. -/
def feed (inputs : List Input) (s : State) : Host.Outcome State Fault Refusal :=
  Host.Core.run Sys2Proof.core inputs.length { s with inputs := inputs }

/-- `MemRead(addr, n)` with its bytes taken in ascending order and nothing arriving between them (R63). -/
def readInputs (a n : Nat) : List Input := .memRead a n :: (List.range' a n).map .readByte

/-- A run that ended as the document's `Complete` means it: every step sent, no command fault. R244: the state that a command
fault leaves "is never a successful end of a run". -/
def endedWell (s : State) : Prop := s.seqState = .complete ∧ s.fault = false

/-- The three outcomes of one step's write (R178). -/
inductive StepAnswers where
  /-- `ok` to the first attempt. -/
  | accepted
  /-- `failed`, then `ok`. -/
  | retried
  /-- `failed`, then `failed`. -/
  | lost
  deriving DecidableEq, Repr

/-- What the environment does during one step: its answers, then the end of the wait. -/
def stepInputs : StepAnswers → List Input
  | .accepted => [.ans .ok, .tick]
  | .retried => [.ans .failed, .ans .ok, .tick]
  | .lost => [.ans .failed, .ans .failed, .tick]

/-- The events of a step before its wait (R67 (b)). -/
def writeEvents (k : Word32) (f : Frame) : StepAnswers → List Event
  | .accepted => [.txAttempt k f true .ok]
  | .retried => [.txAttempt k f true .failed, .txAttempt k f false .ok]
  | .lost => [.txAttempt k f true .failed, .txAttempt k f false .failed, .writeError k]

/-- The events of a whole step (R67 (b)). -/
def stepEvents (k ms : Word32) (f : Frame) (a : StepAnswers) : List Event := writeEvents k f a ++ [.wait k ms]

/-- The frame of step `k` of a command. -/
def stepFrame (i : Instr) (cc : Color) (k : Nat) : Frame := encodeFrame ((stepColour i cc k).getD Color.black)

/-- The events of the steps `k, k+1, …` of a command, one for each member of the list. -/
def stepsTrace (i : Instr) (cc : Color) (ms : Word32) : Nat → List StepAnswers → List Event
  | _, [] => []
  | k, a :: rest => stepEvents (BitVec.ofNat 32 k) ms (stepFrame i cc k) a ++ stepsTrace i cc ms (k + 1) rest

/-- The frame sequence of a trace: the frames of the attempts with acknowledge (R39). -/
def frameSequence : List Event → List Frame
  | [] => []
  | .txAttempt _ f ack _ :: rest => if ack then f :: frameSequence rest else frameSequence rest
  | .writeError _ :: rest => frameSequence rest
  | .wait _ _ :: rest => frameSequence rest
  | .fault _ :: rest => frameSequence rest

/-- The delay sequence of a trace: the delays of the waits (R39). -/
def delaySequence : List Event → List Word32
  | [] => []
  | .txAttempt _ _ _ _ :: rest => delaySequence rest
  | .writeError _ :: rest => delaySequence rest
  | .wait _ ms :: rest => ms :: delaySequence rest
  | .fault _ :: rest => delaySequence rest

/-- The step indices of the write errors of a trace (R246). -/
def errorSteps : List Event → List Word32
  | [] => []
  | .txAttempt _ _ _ _ :: rest => errorSteps rest
  | .writeError k :: rest => k :: errorSteps rest
  | .wait _ _ :: rest => errorSteps rest
  | .fault _ :: rest => errorSteps rest

/-- What the answers of one step and its wait leave: the events, the log of a lost step, and STEP + 1. -/
def afterStep (a : StepAnswers) (s : State) : State :=
  { s with
    werr := s.werr || decide (a = .lost)
    werrcnt := if a = .lost then s.werrcnt + 1 else s.werrcnt
    lasterr := if a = .lost then s.stepIndex else s.lasterr
    trace := s.trace ++ stepEvents s.stepIndex s.delay s.frame a
    stepIndex := s.stepIndex + 1 }

/-- One whole step as a single transition with its answers given (R186 `Step(r1, r2)`). -/
def bigStep (a : StepAnswers) (s : State) : Host.Outcome State Fault Refusal :=
  if s.stepIndex + 1 = s.nsteps then .next { afterStep a s with seqState := .complete, phase := .none }
  else
    match latchedColour (afterStep a s) with
    | some c => .next (beginStep c (afterStep a s))
    | none => .fault .noSuchStep

/-- A device channel value, 0 or in [1,228] (R5, R135 (e)). -/
def deviceChannel (v : Byte) : Prop := v = 0 ∨ (1 ≤ v.toNat ∧ v.toNat ≤ 228)

/-- A colour whose three channels are device channel values. -/
def deviceColour (c : Color) : Prop := deviceChannel c.r ∧ deviceChannel c.g ∧ deviceChannel c.b

/-- The next input, if any, is not a change of the reset input. -/
def noResetNext (s : State) : Prop := ∀ b rest, s.inputs ≠ .rst b :: rest

/-- Two states that differ at most in what the Transport's answers decide (R185): WERR, WERRCNT, LASTERR and the events other
than the frame and delay sequences; and in the fields that are not the block's. -/
def sameButAnswers (s t : State) : Prop :=
  s.desc = t.desc ∧ s.latch = t.latch ∧ s.stepIndex = t.stepIndex ∧ s.nsteps = t.nsteps ∧ s.seqState = t.seqState ∧
    s.phase = t.phase ∧ s.fault = t.fault ∧ s.rej = t.rej ∧ s.cause = t.cause ∧ s.delay = t.delay ∧ s.res = t.res ∧
    s.frame = t.frame ∧ s.cc = t.cc ∧ s.rst = t.rst ∧
    frameSequence s.trace = frameSequence t.trace ∧ delaySequence s.trace = delaySequence t.trace

/-- "`PHASE != NONE` if and only if `STATE = Running`" (R27). -/
def phaseInv (s : State) : Prop := s.phase ≠ .none ↔ s.seqState = .running

/-- CAUSE is non-zero exactly when FAULT is set, and a fault has ended the life with no step (R31, R244). -/
def faultInv (s : State) : Prop :=
  (s.fault = true ↔ s.cause ≠ none) ∧ (s.fault = true → s.seqState = .complete ∧ s.nsteps = 0)

/-- In Idle the sequencer's registers, the flags and the trace still hold their reset values (R41, R172). -/
def idleInv (s : State) : Prop :=
  s.seqState = .idle → s.stepIndex = 0 ∧ s.nsteps = 0 ∧ s.delay = 0 ∧ s.werr = false ∧ s.fault = false ∧ s.rej = false ∧
    s.cause = none ∧ s.werrcnt = 0 ∧ s.lasterr = 0 ∧ s.cc = Color.black ∧ s.trace = []

/-- Outside Idle DESC is the latched descriptor: no write reaches it (R23, R64 (b)). -/
def latchInv (s : State) : Prop := s.seqState ≠ .idle → s.desc = s.latch

/-- While `rst` is asserted the state is exactly that of reset (R270). -/
def resetInv (s : State) : Prop := s.rst = true → s = resetBlock true s

/-- The control part of the state. -/
def controlInv (s : State) : Prop := phaseInv s ∧ faultInv s ∧ idleInv s ∧ latchInv s ∧ resetInv s

/-- The registers of a command in flight or ended without a command fault are those of the latched command: NSTEPS, DELAY
and CC as launched, STEP inside its range, and during a step RES and FRAME the step's colour and frame (R25, R32, R36, R173). -/
def commandInv (s : State) : Prop :=
  s.seqState ≠ .idle → s.fault = false →
    ∃ i, decode s.latch = .ok i ∧ i.isSequence = true ∧ i.wellFormed = true ∧
      s.nsteps = BitVec.ofNat 32 (seqSteps i) ∧ s.delay = BitVec.ofNat 32 (seqDelay i) ∧
      (∀ c, seqLatch i = some c → s.cc = c) ∧
      (s.seqState = .running → s.stepIndex.toNat < seqSteps i ∧
        stepColour i s.cc s.stepIndex.toNat = some s.res ∧ s.frame = encodeFrame s.res) ∧
      (s.seqState = .complete → s.stepIndex.toNat = seqSteps i)

/-- WERR, WERRCNT and LASTERR sum up the write errors of the trace (R33, R246). -/
def logInv (s : State) : Prop :=
  s.werrcnt = BitVec.ofNat 32 (errorSteps s.trace).length ∧ (s.werr = true ↔ errorSteps s.trace ≠ []) ∧
    s.lasterr = (errorSteps s.trace).getLast?.getD 0

/-- The events of the step in progress, as far as PHASE says it has come (R67 (b)). -/
def partialEvents (s : State) (es : List Event) : Prop :=
  match s.phase with
  | .none => es = []
  | .att1 => es = []
  | .att2 => es = [.txAttempt s.stepIndex s.frame true .failed]
  | .wait => ∃ a, es = writeEvents s.stepIndex s.frame a

/-- TRACE is the events of the whole steps so far, in order, then those of the step in progress (R67, R177). -/
def traceInv (s : State) : Prop :=
  s.seqState ≠ .idle → s.fault = false →
    ∃ i answers es, decode s.latch = .ok i ∧ answers.length = s.stepIndex.toNat ∧ partialEvents s es ∧
      s.trace = stepsTrace i s.cc s.delay 0 answers ++ es

/-- After a command fault TRACE is that one event (R244). -/
def faultTraceInv (s : State) : Prop := ∀ c, s.fault = true → s.cause = some c → s.trace = [.fault c]

/-- The whole invariant. -/
def inv (s : State) : Prop := controlInv s ∧ commandInv s ∧ logInv s ∧ traceInv s ∧ faultTraceInv s

/-- Every frame presented to the Transport is an encoded device colour (R123, R205 (f)). -/
def deviceInv (s : State) : Prop :=
  deviceColour s.cc ∧ (s.seqState = .running → deviceColour s.res ∧ s.frame = encodeFrame s.res) ∧
    ∀ k f ack r, Event.txAttempt k f ack r ∈ s.trace → ∃ c, deviceColour c ∧ f = encodeFrame c

end Sys2Proof.Safety
end

