-- ==== Sys2Proof/Certificates/Slice0/Obligations.lean ====
section
/-! DEFINITION. The statements for the provers. -/

section

open Sys2Proof Sys2Proof.Machine Sys2Proof.Safety

/-! ### Encoding -/

/-- R90 to R97: the encoder's descriptor of any operation, legal or not, decodes to that operation: no bit of an operand is
dropped and no two operations share a descriptor. -/
def Obligations.DecodeEncodeRoundTrip : Prop := ∀ i : Instr, decode (encode i) = .ok i

/-- R91 to R97: a descriptor the decoder accepts is the encoder's descriptor of what it read: every bit is an operand, the
opcode, or zero. -/
def Obligations.EncodeDecodeRoundTrip : Prop := ∀ (d : Descriptor) (i : Instr), decode d = .ok i → encode i = d

/-- R94's last sentence: a descriptor that matches a row of opcode_table.json decodes to that row's operation, and one that
matches no row is rejected, as RESERVED_NONZERO if its opcode byte is one of the nine and as ILLEGAL_OP otherwise. -/
def Obligations.DecodeFollowsOpcodeTable : Prop :=
  ∀ d : Descriptor,
    (∀ row ∈ opcodeTable, wordOfDescriptor d &&& row.mask = row.pattern →
      ∃ i, decode d = .ok i ∧ opcode i = row.opcode) ∧
    ((∀ row ∈ opcodeTable, wordOfDescriptor d &&& row.mask ≠ row.pattern) →
      decode d = .error (if ∃ row ∈ opcodeTable, row.opcode = d[0] then .reservedNonzero else .illegalOp))

/-- Descriptors written out from R91 to R93 and from the spec's worked programs decode to the operations they stand for. -/
def Obligations.WrittenDescriptorsDecode : Prop :=
  decode #v[0x01, 0x0A, 0x14, 0x1E, 0, 0, 0, 0, 0, 0, 0, 0, 0, 0, 0, 0] = .ok (.encode 10 20 30) ∧
  decode #v[0x02, 0xFF, 0, 0, 0x32, 0, 0, 0, 0, 0, 0, 0, 0, 0, 0, 0] = .ok (.compensate 255 0 0 50) ∧
  decode #v[0x03, 0, 0, 0, 1, 0, 3, 0, 1, 0, 1, 0, 1, 0, 2, 0] = .ok (.hsl2rgb 1 3 1 1 1 2) ∧
  decode #v[0x12, 0xC8, 0x64, 0x32, 0x64, 0, 0x03, 0, 0x84, 0x03, 0, 0, 0, 0, 0, 0] =
    .ok (.smooth 200 100 50 100 0 3 900) ∧
  decode #v[0x13, 0xFF, 0xFF, 0xFF, 0x32, 0, 0x02, 0, 0xFA, 0, 0, 0, 0, 0, 0, 0] =
    .ok (.flash 255 255 255 50 2 250) ∧
  decode #v[0x01, 0x0A, 0x14, 0x1E, 0x05, 0, 0, 0, 0, 0, 0, 0, 0, 0, 0, 0] = .error .reservedNonzero ∧
  decode #v[0x16, 0, 0, 0, 0, 0, 0, 0, 0, 0, 0, 0, 0, 0, 0, 0] = .error .illegalOp

/-! ### START -/

/-- R171: a write of CTRL with bit 0 set, in Idle, latches DESC and, where the latch decodes to an operation, the step is that
operation's meaning on the state with the latch taken. It is so for legal and for illegal operands. -/
def Obligations.StartRunsDecodedInstruction : Prop :=
  ∀ (s : State) (v : Byte) (rest : List Input) (i : Instr),
    s.inputs = .memWrite 0x10 [v] :: rest → v.getLsbD 0 = true → s.rst = false → s.seqState = .idle →
    decode s.desc = .ok i →
    step s = exec i { s with inputs := rest, latch := s.desc }

/-- R171, R244: a START whose latch decodes to no operation takes the command fault that the decoder names: the latch, CAUSE,
FAULT, NSTEPS, STATE, PHASE and the event are written and nothing else (the fault's entry is a next state: assumption log 1). -/
def Obligations.StartTakesDecodeFault : Prop :=
  ∀ (s : State) (v : Byte) (rest : List Input) (c : CommandFault),
    s.inputs = .memWrite 0x10 [v] :: rest → v.getLsbD 0 = true → s.rst = false → s.seqState = .idle →
    decode s.desc = .error c →
    step s = .next { s with
      inputs := rest, latch := s.desc, cause := some c, fault := true, nsteps := 0, seqState := .complete, phase := .none,
      trace := s.trace ++ [.fault c] }

/-- R171, R248: a START outside Idle sets REJ and does nothing else. -/
def Obligations.StartRefusedOutsideIdle : Prop :=
  ∀ (s : State) (v : Byte) (rest : List Input),
    s.inputs = .memWrite 0x10 [v] :: rest → v.getLsbD 0 = true → s.rst = false → s.seqState ≠ .idle →
    step s = .next { s with inputs := rest, rej := true }

/-! ### The three functions -/

/-- R121: ENCODE writes FRAME, all nine bytes, and nothing else, for every colour and in every state. -/
def Obligations.EncodeWritesFrameOnly : Prop :=
  ∀ (r g b : Byte) (s : State),
    exec (.encode r g b) s = .next { s with frame := #v[0x7E, 0x07, 0x05, 0x03, r, g, b, 0x10, 0xEF] }

/-- R134, R95 (b): COMPENSATE writes RES and nothing else, with the raw brightness clamped to 100. -/
def Obligations.CompensateWritesResOnly : Prop :=
  ∀ (r g b bri : Byte) (s : State),
    exec (.compensate r g b bri) s = .next { s with res := compensate ⟨r, g, b⟩ (min bri.toNat 100) }

/-- R155, R151 to R153: HSL2RGB on fractions inside [0,1] writes RES, each channel the rational formula times 255 rounded half
up, and nothing else. -/
def Obligations.Hsl2rgbWritesResOnly : Prop :=
  ∀ (hnum hden snum sden lnum lden : Half) (s : State),
    hden ≠ 0 → sden ≠ 0 → lden ≠ 0 → hnum.toNat ≤ hden.toNat → snum.toNat ≤ sden.toNat → lnum.toNat ≤ lden.toNat →
    let channel (offset : ℚ) : Byte := BitVec.ofNat 8 (Reference.roundHalfUp
      (Reference.hslChannel (hnum.toNat / hden.toNat) (snum.toNat / sden.toNat) (lnum.toNat / lden.toNat) offset * 255))
    exec (.hsl2rgb hnum hden snum sden lnum lden) s =
      .next { s with res := ⟨channel (1 / 3), channel 0, channel (-1 / 3)⟩ }

/-- R243, R244: HSL2RGB outside the domain takes BAD_FRACTION, writing what the fault entry writes and nothing else
(the fault's entry is a next state: assumption log 1). -/
def Obligations.Hsl2rgbBadFractionFaults : Prop :=
  ∀ (hnum hden snum sden lnum lden : Half) (s : State),
    (hden = 0 ∨ sden = 0 ∨ lden = 0 ∨ hden.toNat < hnum.toNat ∨ sden.toNat < snum.toNat ∨ lden.toNat < lnum.toNat) →
    exec (.hsl2rgb hnum hden snum sden lnum lden) s = .next { s with
      cause := some .badFraction, fault := true, nsteps := 0, seqState := .complete, phase := .none,
      trace := s.trace ++ [.fault .badFraction] }

/-- R122: (a) to (f) for the frame of a colour. -/
def Obligations.EncodeFrameShape : Prop :=
  (∀ c : Color, (encodeFrame c).toList.length = 9 ∧
    (encodeFrame c).toList.take 4 = [0x7E, 0x07, 0x05, 0x03] ∧ (encodeFrame c).toList.drop 7 = [0x10, 0xEF] ∧
    (encodeFrame c)[4] = c.r ∧ (encodeFrame c)[5] = c.g ∧ (encodeFrame c)[6] = c.b) ∧
  (∀ c c' : Color, encodeFrame c = encodeFrame c' → c = c') ∧
  (∀ (c : Color) (s : State), (beginStep c s).frame = encodeFrame c) ∧
  (∀ (r g b : Byte) (s t : State), exec (.encode r g b) s = .next t → t.frame = encodeFrame ⟨r, g, b⟩)

/-- R133: every entry of the gain table. -/
def Obligations.GainTableEntries : Prop :=
  gainTable.length = 101 ∧ ∀ b ≤ 100, (gainTable[b]?).map BitVec.toNat = some (100 + 227 * b) ∧ gain b = 100 + 227 * b

/-- R131: the table and scaler compute the document's rational formula, with its three checks in their order. -/
def Obligations.CompensateIsDocumentFormula : Prop :=
  ∀ (c : Color) (b : Nat), b ≤ 100 →
    compensate c b = if b ≤ 0 then ⟨0, 0, 0⟩ else
      ⟨BitVec.ofNat 8 (Reference.lane c.r.toNat b), BitVec.ofNat 8 (Reference.lane c.g.toNat b),
        BitVec.ofNat 8 (Reference.lane c.b.toNat b)⟩

/-- R135 (a) to (f): black at brightness 0, zero channels stay zero, non-zero ones stay non-zero, monotone in the brightness and
in the channel, every result 0 or in [1,228] and 0 exactly when the brightness or the channel is 0. -/
def Obligations.CompensateProperties : Prop :=
  (∀ c : Color, compensate c 0 = ⟨0, 0, 0⟩) ∧
  (∀ (v : Byte) (b : Nat), b ≤ 100 → 0 < b →
    ((channel v b).toNat = 0 ↔ v = 0) ∧ (v ≠ 0 → 1 ≤ (channel v b).toNat) ∧ (channel v b).toNat ≤ 228) ∧
  (∀ (v : Byte) (b : Nat), 1 ≤ b → b < 100 → (channel v b).toNat ≤ (channel v (b + 1)).toNat) ∧
  (∀ (v w : Byte) (b : Nat), b ≤ 100 → v.toNat ≤ w.toNat → (channel v b).toNat ≤ (channel w b).toNat)

/-- R154: at saturation 1 and lightness 1/2 the converter is the sector table, for every hue `i/n` with `i < n`. -/
def Obligations.ConverterSectorForm : Prop :=
  ∀ i n : Nat, i < n →
    let rem := 6 * i % n
    let up : Byte := BitVec.ofNat 8 ((510 * rem + n) / (2 * n))
    let dn : Byte := BitVec.ofNat 8 ((510 * (n - rem) + n) / (2 * n))
    hslToRgb ⟨i, n⟩ ⟨1, 1⟩ ⟨1, 2⟩ =
      match 6 * i / n with
      | 0 => ⟨255, up, 0⟩
      | 1 => ⟨dn, 255, 0⟩
      | 2 => ⟨0, 255, up⟩
      | 3 => ⟨0, dn, 255⟩
      | 4 => ⟨up, 0, 255⟩
      | _ => ⟨255, 0, dn⟩

/-- R150: the converted colour does not depend on how the three fractions are written. -/
def Obligations.ConverterIgnoresFractionForm : Prop :=
  ∀ h s l h' s' l' : Frac,
    0 < h.den → 0 < s.den → 0 < l.den → 0 < h'.den → 0 < s'.den → 0 < l'.den →
    h.num * h'.den = h'.num * h.den → s.num * s'.den = s'.num * s.den → l.num * l'.den = l'.num * l.den →
    hslToRgb h s l = hslToRgb h' s' l'

/-- R155's corner cases: saturation 0 ignores the hue, lightness 0 is black and lightness 1 white for every hue and
saturation, and hue 1 is hue 0. -/
def Obligations.ConverterCornerCases : Prop :=
  ∀ hn hd sn sd ln ld : Nat, 0 < hd → 0 < sd → 0 < ld → hn ≤ hd → sn ≤ sd → ln ≤ ld →
    (∀ h' : Frac, hslToRgb ⟨hn, hd⟩ ⟨0, sd⟩ ⟨ln, ld⟩ = hslToRgb h' ⟨0, sd⟩ ⟨ln, ld⟩) ∧
    hslToRgb ⟨hn, hd⟩ ⟨sn, sd⟩ ⟨0, ld⟩ = ⟨0, 0, 0⟩ ∧
    hslToRgb ⟨hn, hd⟩ ⟨sn, sd⟩ ⟨ld, ld⟩ = ⟨255, 255, 255⟩ ∧
    hslToRgb ⟨hd, hd⟩ ⟨sn, sd⟩ ⟨ln, ld⟩ = hslToRgb ⟨0, hd⟩ ⟨sn, sd⟩ ⟨ln, ld⟩

/-- R8: `rhu` on `n/d` is the floor of the rational plus one half, and the rule's five examples. -/
def Obligations.RoundHalfUpIsNearest : Prop :=
  (∀ n d : Nat, 0 < d → (rhu n d : ℤ) = ⌊(n / d : ℚ) + 1 / 2⌋) ∧
  rhu 1145 10 = 115 ∧ rhu 5747 100 = 57 ∧ rhu 49 100 = 0 ∧ rhu 1 2 = 1 ∧ rhu 0 1 = 0

/-! ### Launching the sequence operations -/

/-- R184, R173: SETCOLOR launches one step of delay 0 with the compensated colour; CC and every other register
keep their values. -/
def Obligations.SetcolorLaunches : Prop :=
  ∀ (r g b bri : Byte) (s : State),
    let c := compensate ⟨r, g, b⟩ (min bri.toNat 100)
    exec (.setcolor r g b bri) s = .next { s with
      nsteps := 1, delay := 0, stepIndex := 0, seqState := .running, phase := .att1,
      res := c, frame := #v[0x7E, 0x07, 0x05, 0x03, c.r, c.g, c.b, 0x10, 0xEF] }

/-- R200, R173, R180: PULSE with a non-zero step count launches `2*S + 1` steps of delay `T // (2*S)`, the first one black. -/
def Obligations.PulseLaunches : Prop :=
  ∀ (r g b bri : Byte) (steps : Half) (dur : Word32) (s : State), steps ≠ 0 →
    exec (.pulse r g b bri steps dur) s = .next { s with
      nsteps := BitVec.ofNat 32 (2 * steps.toNat + 1), delay := BitVec.ofNat 32 (dur.toNat / (2 * steps.toNat)),
      stepIndex := 0, seqState := .running, phase := .att1,
      res := ⟨0, 0, 0⟩, frame := #v[0x7E, 0x07, 0x05, 0x03, 0, 0, 0, 0x10, 0xEF] }

/-- R201, R173, R180: SMOOTH with a non-zero step count launches `S + 1` steps of delay `T // S`, the first one at the from
brightness exactly. -/
def Obligations.SmoothLaunches : Prop :=
  ∀ (r g b bri bri2 : Byte) (steps : Half) (dur : Word32) (s : State), steps ≠ 0 →
    let c := compensate ⟨r, g, b⟩ (min bri.toNat 100)
    exec (.smooth r g b bri bri2 steps dur) s = .next { s with
      nsteps := BitVec.ofNat 32 (steps.toNat + 1), delay := BitVec.ofNat 32 (dur.toNat / steps.toNat),
      stepIndex := 0, seqState := .running, phase := .att1,
      res := c, frame := #v[0x7E, 0x07, 0x05, 0x03, c.r, c.g, c.b, 0x10, 0xEF] }

/-- R202, R173: FLASH with a non-zero count latches CC and launches `2*N` steps of delay `T`, the first one CC; with count 0 it
latches CC, NSTEPS and DELAY and the run is over with no frame presented. -/
def Obligations.FlashLaunches : Prop :=
  ∀ (r g b bri : Byte) (count : Half) (onOff : Word32) (s : State),
    let c := compensate ⟨r, g, b⟩ (min bri.toNat 100)
    (count ≠ 0 → exec (.flash r g b bri count onOff) s = .next { s with
      cc := c, nsteps := BitVec.ofNat 32 (2 * count.toNat), delay := onOff,
      stepIndex := 0, seqState := .running, phase := .att1,
      res := c, frame := #v[0x7E, 0x07, 0x05, 0x03, c.r, c.g, c.b, 0x10, 0xEF] }) ∧
    (count = 0 → exec (.flash r g b bri count onOff) s = .next { s with
      cc := c, nsteps := 0, delay := onOff, stepIndex := 0, seqState := .complete, phase := .none })

/-- R203, R173, R180: RAINBOW with a non-zero step count launches `S` steps of delay `T // S`, the first one compensated red. -/
def Obligations.RainbowLaunches : Prop :=
  ∀ (bri : Byte) (steps : Half) (dur : Word32) (s : State), steps ≠ 0 →
    let c := compensate ⟨255, 0, 0⟩ (min bri.toNat 100)
    exec (.rainbow bri steps dur) s = .next { s with
      nsteps := steps.setWidth 32, delay := BitVec.ofNat 32 (dur.toNat / steps.toNat),
      stepIndex := 0, seqState := .running, phase := .att1,
      res := c, frame := #v[0x7E, 0x07, 0x05, 0x03, c.r, 0, 0, 0x10, 0xEF] }

/-- R204, R173, R180: RUNNING with a non-zero step count latches CC and launches 22 steps of delay `T // S`, the first one the
red lane of CC. -/
def Obligations.RunningLaunches : Prop :=
  ∀ (r g b bri : Byte) (steps : Half) (dur : Word32) (s : State), steps ≠ 0 →
    let c := compensate ⟨r, g, b⟩ (min bri.toNat 100)
    exec (.running r g b bri steps dur) s = .next { s with
      cc := c, nsteps := 22, delay := BitVec.ofNat 32 (dur.toNat / steps.toNat),
      stepIndex := 0, seqState := .running, phase := .att1,
      res := ⟨c.r, 0, 0⟩, frame := #v[0x7E, 0x07, 0x05, 0x03, c.r, 0, 0, 0x10, 0xEF] }

/-- R242, R244: PULSE, SMOOTH, RAINBOW and RUNNING with a step count of 0 take ZERO_STEPS, writing what the fault entry writes
and nothing else (the fault's entry is a next state: assumption log 1); FLASH with a count of 0 raises no fault. -/
def Obligations.ZeroStepsFaults : Prop :=
  ∀ (r g b bri bri2 : Byte) (dur : Word32) (s : State),
    (∀ i : Instr, (i = .pulse r g b bri 0 dur ∨ i = .smooth r g b bri bri2 0 dur ∨ i = .rainbow bri 0 dur ∨
        i = .running r g b bri 0 dur) →
      exec i s = .next { s with
        cause := some .zeroSteps, fault := true, nsteps := 0, seqState := .complete, phase := .none,
        trace := s.trace ++ [.fault .zeroSteps] }) ∧
    ∃ t, exec (.flash r g b bri 0 dur) s = .next t ∧ t.fault = s.fault ∧ t.cause = s.cause ∧ t.trace = s.trace

/-! ### The colours of the steps -/

/-- R200, R8: PULSE's colour of step `k` is the colour compensated at `i/S * Bt` rounded half up, `i` being `k` on the way up and
`2*S - k` on the way down. -/
def Obligations.PulseStepColours : Prop :=
  ∀ (r g b bri : Byte) (steps : Half) (dur : Word32) (cc : Color) (k : Nat), steps ≠ 0 → k ≤ 2 * steps.toNat →
    stepColour (.pulse r g b bri steps dur) cc k = some (compensate ⟨r, g, b⟩ (Reference.roundHalfUp
      ((min k (2 * steps.toNat - k) : ℕ) / steps.toNat * (min bri.toNat 100 : ℕ) : ℚ)))

/-- R205 (b), R200: PULSE's brightness sequence is symmetric, peaks at the target, and ends black; and it never falls on
the way up (R205 (g)). -/
def Obligations.PulseRampSymmetric : Prop :=
  ∀ (bri : Byte) (steps : Half), steps ≠ 0 →
    (∀ k ≤ 2 * steps.toNat, pulseBrightness bri steps k = pulseBrightness bri steps (2 * steps.toNat - k)) ∧
    pulseBrightness bri steps 0 = 0 ∧ pulseBrightness bri steps steps.toNat = min bri.toNat 100 ∧
    pulseBrightness bri steps (2 * steps.toNat) = 0 ∧
    (∀ k < steps.toNat, pulseBrightness bri steps k ≤ pulseBrightness bri steps (k + 1)) ∧
    (∀ k, steps.toNat ≤ k → k < 2 * steps.toNat → pulseBrightness bri steps (k + 1) ≤ pulseBrightness bri steps k)

/-- R201, R8: SMOOTH's colour of step `k` is the colour compensated at the document's `Fb + k/S*(Tb - Fb)` rounded half up. -/
def Obligations.SmoothStepColours : Prop :=
  ∀ (r g b bri bri2 : Byte) (steps : Half) (dur : Word32) (cc : Color) (k : Nat), steps ≠ 0 → k ≤ steps.toNat →
    stepColour (.smooth r g b bri bri2 steps dur) cc k = some (compensate ⟨r, g, b⟩ (Reference.roundHalfUp
      ((min bri.toNat 100 : ℕ) + (k : ℚ) / steps.toNat * (((min bri2.toNat 100 : ℕ) : ℚ) - (min bri.toNat 100 : ℕ)))))

/-- R205 (a), (g): SMOOTH's first brightness is the from operand and its last the to operand, exactly, and the sequence moves
one way. -/
def Obligations.SmoothRampEndpoints : Prop :=
  ∀ (bri bri2 : Byte) (steps : Half), steps ≠ 0 →
    smoothBrightness bri bri2 steps 0 = min bri.toNat 100 ∧
    smoothBrightness bri bri2 steps steps.toNat = min bri2.toNat 100 ∧
    (∀ k < steps.toNat,
      (min bri.toNat 100 ≤ min bri2.toNat 100 →
        smoothBrightness bri bri2 steps k ≤ smoothBrightness bri bri2 steps (k + 1)) ∧
      (min bri2.toNat 100 ≤ min bri.toNat 100 →
        smoothBrightness bri bri2 steps (k + 1) ≤ smoothBrightness bri bri2 steps k))

/-- R202: FLASH's colour of step `k` is CC on even and black on odd steps, and there are exactly `2*N` of them. -/
def Obligations.FlashStepColours : Prop :=
  ∀ (r g b bri : Byte) (count : Half) (onOff : Word32) (cc : Color) (k : Nat),
    (k < count.toNat →
      stepColour (.flash r g b bri count onOff) cc (2 * k) = some cc ∧
      stepColour (.flash r g b bri count onOff) cc (2 * k + 1) = some ⟨0, 0, 0⟩) ∧
    (2 * count.toNat ≤ k → stepColour (.flash r g b bri count onOff) cc k = none)

/-- R203, R154: RAINBOW's colour of step `k` is the hue `k/S` of the sector table, compensated at the brightness. -/
def Obligations.RainbowStepColours : Prop :=
  ∀ (bri : Byte) (steps : Half) (dur : Word32) (cc : Color) (k : Nat), k < steps.toNat →
    let n := steps.toNat
    let up : Byte := BitVec.ofNat 8 ((510 * (6 * k % n) + n) / (2 * n))
    let dn : Byte := BitVec.ofNat 8 ((510 * (n - 6 * k % n) + n) / (2 * n))
    stepColour (.rainbow bri steps dur) cc k = some (compensate
      (match 6 * k / n with
        | 0 => ⟨255, up, 0⟩
        | 1 => ⟨dn, 255, 0⟩
        | 2 => ⟨0, 255, up⟩
        | 3 => ⟨0, dn, 255⟩
        | 4 => ⟨up, 0, 255⟩
        | _ => ⟨255, 0, dn⟩) (min bri.toNat 100))

/-- R204: RUNNING's colours are the seven lane masks of CC three times and then CC, 22 in all. -/
def Obligations.RunningStepColours : Prop :=
  ∀ (r g b bri : Byte) (steps : Half) (dur : Word32) (cc : Color),
    (List.range 23).map (stepColour (.running r g b bri steps dur) cc) =
      let cycle : List (Option Color) :=
        [some ⟨cc.r, 0, 0⟩, some ⟨0, cc.g, 0⟩, some ⟨0, 0, cc.b⟩, some ⟨cc.r, cc.g, 0⟩, some ⟨0, cc.g, cc.b⟩,
          some ⟨cc.r, 0, cc.b⟩, some ⟨cc.r, cc.g, cc.b⟩]
      cycle ++ cycle ++ cycle ++ [some ⟨cc.r, cc.g, cc.b⟩, none]

/-! ### The micro-steps -/

/-- R174: micro-step ATT1, with either answer. -/
def Obligations.FirstAttemptAnswered : Prop :=
  ∀ (s : State) (r : Answer) (rest : List Input),
    s.inputs = .ans r :: rest → s.seqState = .running → s.phase = .att1 →
    step s = .next { s with
      inputs := rest, trace := s.trace ++ [.txAttempt s.stepIndex s.frame true r],
      phase := if r = .ok then .wait else .att2 }

/-- R175, R246: micro-step ATT2, with either answer; the write error's registers and event only on `failed`. -/
def Obligations.SecondAttemptAnswered : Prop :=
  ∀ (s : State) (rest : List Input), s.seqState = .running → s.phase = .att2 →
    (s.inputs = .ans .ok :: rest → step s = .next { s with
      inputs := rest, trace := s.trace ++ [.txAttempt s.stepIndex s.frame false .ok], phase := .wait }) ∧
    (s.inputs = .ans .failed :: rest → step s = .next { s with
      inputs := rest, phase := .wait, werr := true, werrcnt := s.werrcnt + 1, lasterr := s.stepIndex,
      trace := s.trace ++ [.txAttempt s.stepIndex s.frame false .failed, .writeError s.stepIndex] })

/-- R176: the end of a wait: the event, STEP + 1, and then either the end of the run or the next step with its colour
and frame. -/
def Obligations.WaitOverAdvances : Prop :=
  ∀ (s : State) (rest : List Input), s.inputs = .tick :: rest → s.seqState = .running → s.phase = .wait →
    (s.stepIndex + 1 = s.nsteps → step s = .next { s with
      inputs := rest, trace := s.trace ++ [.wait s.stepIndex s.delay], stepIndex := s.stepIndex + 1,
      seqState := .complete, phase := .none }) ∧
    (∀ i c, s.stepIndex + 1 ≠ s.nsteps → decode s.latch = .ok i →
      stepColour i s.cc (s.stepIndex + 1).toNat = some c → step s = .next { s with
        inputs := rest, trace := s.trace ++ [.wait s.stepIndex s.delay], stepIndex := s.stepIndex + 1,
        res := c, frame := encodeFrame c, phase := .att1 })

/-- R281, R174 to R176, R63: an answer with no attempt outstanding, the end of a wait that is not running, and the taking of a
byte that no read is still owed are refused by name (the refusals, instead of ignoring the input, are the model's choice:
assumption logs 5 and 3). -/
def Obligations.UninvitedInputsRefused : Prop :=
  ∀ (s : State) (rest : List Input),
    (∀ r, s.inputs = .ans r :: rest → s.seqState ≠ .running ∨ (s.phase ≠ .att1 ∧ s.phase ≠ .att2) →
      step s = .refused .noAttemptOutstanding) ∧
    (s.inputs = .tick :: rest → s.seqState ≠ .running ∨ s.phase ≠ .wait → step s = .refused .noWaitRunning) ∧
    (∀ a, s.inputs = .readByte a :: rest → a ∉ s.reading → step s = .refused .byteNotAwaited)

/-- R280, R29, R66: while nothing arrives from outside the block does not move, and its outputs show what it is waiting for: the
Transport port the one attempt outstanding, the delay port the wait running, `busy` and `done` the STATE. -/
def Obligations.OutputsShowWhatIsAwaited : Prop :=
  (∀ s : State, s.inputs = [] → step s = .next s) ∧
  ∀ s : State, phaseInv s →
    (busy s = true ↔ s.seqState = .running) ∧ (done s = true ↔ s.seqState = .complete) ∧
    (∀ f ack, transportPort s = some (f, ack) ↔
      s.seqState = .running ∧ f = s.frame ∧ ((s.phase = .att1 ∧ ack = true) ∨ (s.phase = .att2 ∧ ack = false))) ∧
    (∀ ms, delayPort s = some ms ↔ s.seqState = .running ∧ s.phase = .wait ∧ ms = s.delay)

/-- R186: the micro-steps of one step, applied in turn, are the big step. -/
def Obligations.MicroStepsMakeBigStep : Prop :=
  ∀ (s : State) (a : StepAnswers), s.seqState = .running → s.phase = .att1 →
    feed (stepInputs a) s = bigStep a { s with inputs := [] }

/-! ### Host port and reset -/

/-- R64 (a), (b), R21: a byte written to `DESC[k]` is stored in Idle and refused with REJ otherwise; nothing else changes. -/
def Obligations.DescWriteOnlyInIdle : Prop :=
  ∀ (s : State) (k : Nat) (v : Byte) (rest : List Input) (hk : k < 16),
    s.inputs = .memWrite k [v] :: rest → s.rst = false →
    (s.seqState = .idle → step s = .next { s with inputs := rest, desc := s.desc.set k v }) ∧
    (s.seqState ≠ .idle → step s = .next { s with inputs := rest, rej := true })

/-- R64 (d), (e), R30, R61: of the single-byte host writes, only those to DESC and those to CTRL with bit 0 set can change
anything: a write of CTRL with bit 0 clear, and a write to a read-only or reserved address, change no register. -/
def Obligations.OtherWritesIgnored : Prop :=
  ∀ (s : State) (a : Nat) (v : Byte) (rest : List Input), 0x10 ≤ a → a < 0x40 → (a = 0x10 → v.getLsbD 0 = false) →
    s.inputs = .memWrite a [v] :: rest → step s = .next { s with inputs := rest }

/-- R63: an access of several bytes acts as the accesses of its two parts, one after the other. -/
def Obligations.WideWriteIsByteWrites : Prop :=
  ∀ (s : State) (a : Nat) (xs ys : List Byte), xs ≠ [] → ys ≠ [] → xs.length + ys.length ≤ 16 →
    a + xs.length + ys.length ≤ 0x40 →
    feed [.memWrite a (xs ++ ys)] s = feed [.memWrite a xs, .memWrite (a + xs.length) ys] s

/-- R63, R65: a read of any `n` in 1..16 bytes inside the space is accepted, and each of its bytes, taken at any time and in any
order, is its own address's byte as the register then stands, so a read is not atomic across bytes (R277; any order is the
model's choice: assumption log 3); nothing but what the host has been given and is still owed changes. Taken with nothing in
between, the bytes are one state's. R61, R62, R29, R31: the byte of every address. -/
def Obligations.HostReadsRegisterMap : Prop :=
  ∀ s : State,
    (∀ a n rest, 1 ≤ n → n ≤ 16 → a + n ≤ 0x40 → s.inputs = .memRead a n :: rest →
      step s = .next { s with inputs := rest, hostData := [], reading := List.range' a n }) ∧
    (∀ a rest, a ∈ s.reading → s.inputs = .readByte a :: rest →
      step s = .next { s with
        inputs := rest, hostData := s.hostData ++ [(a, regByte a s)], reading := s.reading.erase a }) ∧
    (∀ a n, 1 ≤ n → n ≤ 16 → a + n ≤ 0x40 → feed (readInputs a n) s = .next { s with
      inputs := [], hostData := (List.range' a n).map (fun k => (k, regByte k s)), reading := [] }) ∧
    (∀ k : Fin 16, regByte k s = s.desc[k]) ∧
    regByte 0x10 s = 0 ∧
    (regByte 0x11 s).toNat = (match s.seqState with | .idle => 0 | .running => 1 | .complete => 2) +
      4 * s.werr.toNat + 8 * s.fault.toNat + 16 * s.rej.toNat ∧
    (regByte 0x12 s).toNat = (match s.cause with
      | none => 0 | some .illegalOp => 1 | some .reservedNonzero => 2 | some .zeroSteps => 3 | some .badFraction => 4) ∧
    (regByte 0x13 s).toNat = (match s.phase with | .none => 0 | .att1 => 1 | .att2 => 2 | .wait => 3) ∧
    (∀ a x, (a, x) ∈ [(0x14, s.stepIndex), (0x18, s.nsteps), (0x1C, s.delay), (0x20, s.werrcnt), (0x24, s.lasterr)] →
      (regByte a s).toNat + 256 * (regByte (a + 1) s).toNat + 65536 * (regByte (a + 2) s).toNat +
        16777216 * (regByte (a + 3) s).toNat = x.toNat) ∧
    (regByte 0x28 s = s.res.r ∧ regByte 0x29 s = s.res.g ∧ regByte 0x2A s = s.res.b ∧ regByte 0x2B s = 0) ∧
    (∀ k : Fin 9, regByte (0x2C + k) s = s.frame[k]) ∧
    (regByte 0x35 s = s.cc.r ∧ regByte 0x36 s = s.cc.g ∧ regByte 0x37 s = s.cc.b) ∧
    (∀ a, 0x38 ≤ a → a < 0x40 → regByte a s = 0)

/-- R63, U7: an access that reaches past `0x3F`, or whose size is not 1..16, is refused by name and reaches no register (that
the machine stops there is the model's choice: assumption log 4). -/
def Obligations.AccessOutsideSpaceRefused : Prop :=
  ∀ (s : State) (a n : Nat) (vs : List Byte) (rest : List Input), n = 0 ∨ 16 < n ∨ 0x40 < a + n →
    (s.inputs = .memRead a n :: rest → step s = .refused .outsideRegisterSpace) ∧
    (s.inputs = .memWrite a vs :: rest → vs.length = n → step s = .refused .outsideRegisterSpace)

/-- R274 step 2, R63: sixteen bytes written to DESC in Idle are what the host then reads there. -/
def Obligations.DescriptorReadsBack : Prop :=
  ∀ (s : State) (d : Descriptor), s.seqState = .idle → s.rst = false →
    feed (.memWrite 0 d.toList :: readInputs 0 16) s = .next { s with
      inputs := [], desc := d, hostData := (List.range 16).zip d.toList, reading := [] }

/-- R41: every register, output and port after reset. -/
def Obligations.ResetValues : Prop :=
  let s := State.reset
  s.desc.toList = List.replicate 16 0 ∧ s.latch.toList = List.replicate 16 0 ∧ s.stepIndex = 0 ∧ s.nsteps = 0 ∧
    s.seqState = .idle ∧ s.phase = .none ∧ s.werr = false ∧ s.fault = false ∧ s.rej = false ∧ s.cause = none ∧
    s.delay = 0 ∧ s.werrcnt = 0 ∧ s.lasterr = 0 ∧ s.res = ⟨0, 0, 0⟩ ∧ s.frame.toList = List.replicate 9 0 ∧
    s.cc = ⟨0, 0, 0⟩ ∧ s.trace = [] ∧ busy s = false ∧ done s = false ∧ transportPort s = none ∧ delayPort s = none

/-- R270, R42: asserting `rst` brings every register to its reset value from any state, whatever was running; while it is
asserted no host access changes a register; and its release leaves the reset values. -/
def Obligations.ResetFromAnyState : Prop :=
  ∀ (s : State) (rest : List Input),
    (s.inputs = .rst true :: rest →
      step s = .next { State.reset with rst := true, inputs := rest, hostData := s.hostData, reading := s.reading }) ∧
    (s.rst = true → s.inputs = .rst false :: rest →
      step s = .next { State.reset with inputs := rest, hostData := s.hostData, reading := s.reading }) ∧
    (∀ a vs t, s.rst = true → s.inputs = .memWrite a vs :: rest → step s = .next t → t = { s with inputs := rest })

/-! ### The whole machine -/

/-- R26: without a reset, STATE moves only from Idle to Running or Complete and from Running to Complete. -/
def Obligations.StateTransitions : Prop :=
  ∀ s t : State, noResetNext s → step s = .next t →
    t.seqState = s.seqState ∨ (s.seqState = .idle ∧ t.seqState = .running) ∨
      (s.seqState = .idle ∧ t.seqState = .complete) ∨ (s.seqState = .running ∧ t.seqState = .complete)

/-- R28, R182 (a), R67: without a reset no flag is cleared, STEP moves only to 0 by a launch out of Idle or to STEP + 1 by the end
of a wait, and TRACE only grows. -/
def Obligations.FlagsStickAndStepCounts : Prop :=
  ∀ s t : State, noResetNext s → step s = .next t →
    (s.werr = true → t.werr = true) ∧ (s.fault = true → t.fault = true) ∧ (s.rej = true → t.rej = true) ∧
    (t.stepIndex = s.stepIndex ∨ (s.seqState = .idle ∧ t.seqState ≠ .idle ∧ t.stepIndex = 0) ∨
      (s.seqState = .running ∧ s.phase = .wait ∧ t.stepIndex = s.stepIndex + 1)) ∧
    ∃ es, t.trace = s.trace ++ es

/-- R183, R278: only a reset leaves Complete; any other input changes at most REJ there. -/
def Obligations.CompleteIsTerminal : Prop :=
  ∀ s t : State, noResetNext s → s.seqState = .complete → step s = .next t →
    t = { s with inputs := t.inputs, hostData := t.hostData, reading := t.reading, rej := t.rej } ∧
      (s.rej = true → t.rej = true)

/-- R23, R69: while a command runs the host changes nothing but REJ: no write reaches DESC, the latch or a register of the
sequencer. -/
def Obligations.HostCannotDisturbRun : Prop :=
  ∀ (s t : State) (a : Nat) (vs : List Byte) (rest : List Input), s.seqState = .running → s.rst = false →
    s.inputs = .memWrite a vs :: rest → step s = .next t → t = { s with inputs := rest, rej := t.rej }

/-! ### Invariants -/

/-- The invariant holds after reset. -/
def Obligations.ResetHasInvariant : Prop := inv State.reset ∧ deviceInv State.reset

/-- R27, R31, R244, R41, R23, R270: every step keeps the control invariant. -/
def Obligations.StepKeepsControlInvariant : Prop := ∀ s t : State, controlInv s → step s = .next t → controlInv t

/-- R33, R246: every step keeps WERR, WERRCNT and LASTERR the summary of the trace's write errors. -/
def Obligations.StepKeepsErrorLog : Prop := ∀ s t : State, logInv s → step s = .next t → logInv t

/-- R123, R205 (f): every step keeps every presented frame an encoded device colour. -/
def Obligations.StepKeepsDeviceFrames : Prop := ∀ s t : State, deviceInv s → step s = .next t → deviceInv t

/-- R67, R173 to R177: every step keeps the whole invariant: the registers of a command in flight are its own, and TRACE is the
events of its steps in their order. -/
def Obligations.StepKeepsInvariant : Prop := ∀ s t : State, inv s → step s = .next t → inv t

/-- R33: no more steps can have failed than the command has. -/
def Obligations.WriteErrorsBoundedBySteps : Prop := ∀ s : State, inv s → s.werrcnt ≤ s.nsteps

/-- R26, U14: with the invariant the machine never stops with a fault. -/
def Obligations.NoFaultUnderInvariant : Prop := ∀ (s : State) (f : Fault), inv s → step s ≠ .fault f

/-- R177, R182 (d): a legal sequence command started in Idle, whatever the Transport answers, ends well after exactly its steps:
TRACE gains each step's events in order, WERRCNT the lost steps, and the run takes between two and three micro-steps a step. That
it ends rests on the environment's answers being a list that does not run out before it (assumption log 2). -/
def Obligations.SequenceRunsToComplete : Prop :=
  ∀ (i : Instr) (s : State) (answers : List StepAnswers),
    i.isSequence = true → i.wellFormed = true → s.seqState = .idle → s.rst = false → s.fault = false →
    s.desc = encode i → answers.length = seqSteps i →
    let micro := answers.flatMap stepInputs
    2 * seqSteps i ≤ micro.length ∧ micro.length ≤ 3 * seqSteps i ∧
    ∃ t, feed (.memWrite 0x10 [1] :: micro) s = .next t ∧ endedWell t ∧ t.phase = .none ∧
      t.latch = encode i ∧ t.nsteps = BitVec.ofNat 32 (seqSteps i) ∧ t.stepIndex = t.nsteps ∧
      t.delay = BitVec.ofNat 32 (seqDelay i) ∧ t.inputs = [] ∧
      t.trace = s.trace ++ stepsTrace i ((seqLatch i).getD s.cc) t.delay 0 answers ∧
      t.werrcnt = s.werrcnt + BitVec.ofNat 32 (answers.count .lost) ∧
      (t.werr = true ↔ s.werr = true ∨ .lost ∈ answers)

/-- R185: the frame sequence, the delay sequence and every register but WERR, WERRCNT and LASTERR are the same whatever the
Transport answers. -/
def Obligations.AnswersDoNotChangeFrames : Prop :=
  ∀ (s t s' : State) (as bs : List StepAnswers), sameButAnswers s t → s.seqState = .running → s.phase = .att1 →
    as.length = bs.length → feed (as.flatMap stepInputs) s = .next s' →
    ∃ t', feed (bs.flatMap stepInputs) t = .next t' ∧ sameButAnswers s' t'

end
end

