-- ==== Sys2Proof/Laws/Encoding.lean ====
section
/-! SUPPORT. Bytes of fields and fields of bytes, and the word view of a descriptor: what proofs about the encoding cite. -/

namespace Sys2Proof

/-- A 16-bit field is its two bytes (R95 (c)). -/
@[simp] theorem half_byteAt (x : Half) : half (byteAt x 0) (byteAt x 1) = x := by
  unfold half byteAt
  ext i hi
  simp only [BitVec.getElem_append, BitVec.getElem_extractLsb']
  split
  · simp; rfl
  · have h : 8 * 1 + (i - 8) = i := by omega
    rw [h]; rfl

/-- Bits inside the low part of a concatenation. -/
theorem extract_low {n m : Nat} (a : BitVec n) (c : BitVec m) (k w : Nat) (h : k + w ≤ m) :
    (a ++ c).extractLsb' k w = c.extractLsb' k w := by
  ext i hi
  simp [BitVec.getLsbD_append]
  intros
  omega

/-- Bits inside the high part of a concatenation. -/
theorem extract_high {n m : Nat} (a : BitVec n) (c : BitVec m) (k w : Nat) :
    (a ++ c).extractLsb' (m + k) w = a.extractLsb' k w := by
  ext i hi
  simp [BitVec.getLsbD_append, Nat.add_assoc]

/-- The low byte of a 16-bit field. -/
@[simp] theorem byteAt_half_zero (lo hi : Byte) : byteAt (half lo hi) 0 = lo :=
  (extract_low hi lo 0 8 (by omega)).trans BitVec.extractLsb'_eq_self

/-- The high byte of a 16-bit field. -/
@[simp] theorem byteAt_half_one (lo hi : Byte) : byteAt (half lo hi) 1 = hi :=
  (extract_high hi lo 0 8).trans BitVec.extractLsb'_eq_self

/-- A 32-bit field is its four bytes (R95 (d)). -/
@[simp] theorem word32_byteAt (x : Word32) : word32 (byteAt x 0) (byteAt x 1) (byteAt x 2) (byteAt x 3) = x := by
  unfold word32 byteAt
  ext i hi
  simp only [BitVec.getElem_append, BitVec.getElem_extractLsb']
  split
  · simp; rfl
  · split
    · have h : 8 * 1 + (i - 8) = i := by omega
      rw [h]; rfl
    · split
      · have h : 8 * 2 + (i - 8 - 8) = i := by omega
        rw [h]; rfl
      · have h : 8 * 3 + (i - 8 - 8 - 8) = i := by omega
        rw [h]; rfl

/-- The four bytes of a 32-bit field. -/
theorem byteAt_word32 (b0 b1 b2 b3 : Byte) :
    byteAt (word32 b0 b1 b2 b3) 0 = b0 ∧ byteAt (word32 b0 b1 b2 b3) 1 = b1 ∧
      byteAt (word32 b0 b1 b2 b3) 2 = b2 ∧ byteAt (word32 b0 b1 b2 b3) 3 = b3 := by
  refine ⟨?_, ?_, ?_, ?_⟩
  · exact (extract_low (b3 ++ b2 ++ b1) b0 0 8 (by omega)).trans BitVec.extractLsb'_eq_self
  · exact (extract_high (b3 ++ b2 ++ b1) b0 0 8).trans
      ((extract_low (b3 ++ b2) b1 0 8 (by omega)).trans BitVec.extractLsb'_eq_self)
  · exact (extract_high (b3 ++ b2 ++ b1) b0 8 8).trans ((extract_high (b3 ++ b2) b1 0 8).trans
      ((extract_low b3 b2 0 8 (by omega)).trans BitVec.extractLsb'_eq_self))
  · exact (extract_high (b3 ++ b2 ++ b1) b0 16 8).trans ((extract_high (b3 ++ b2) b1 8 8).trans
      ((extract_high b3 b2 0 8).trans BitVec.extractLsb'_eq_self))

/-- A concatenation determines its parts. -/
theorem append_parts {n m : Nat} {a b : BitVec n} {c d : BitVec m} (h : a ++ c = b ++ d) : a = b ∧ c = d := by
  constructor
  · have := congrArg (fun x => x.extractLsb' (m + 0) n) h
    simpa only [extract_high, BitVec.extractLsb'_eq_self] using this
  · have := congrArg (fun x => x.extractLsb' 0 m) h
    simpa only [extract_low a c 0 m (by omega), extract_low b d 0 m (by omega), BitVec.extractLsb'_eq_self] using this

/-- The mask of a word is the mask of its bytes. -/
theorem wordOfDescriptor_and (d e : Descriptor) :
    wordOfDescriptor d &&& wordOfDescriptor e = wordOfDescriptor (Vector.ofFn fun k => d.get k &&& e.get k) := by
  simp only [wordOfDescriptor, ← BitVec.and_append, Vector.getElem_ofFn]
  rfl

/-- The word view loses nothing. -/
theorem wordOfDescriptor_inj {d e : Descriptor} (h : wordOfDescriptor d = wordOfDescriptor e) : d = e := by
  unfold wordOfDescriptor at h
  obtain ⟨h, h0⟩ := append_parts h
  obtain ⟨h, h1⟩ := append_parts h
  obtain ⟨h, h2⟩ := append_parts h
  obtain ⟨h, h3⟩ := append_parts h
  obtain ⟨h, h4⟩ := append_parts h
  obtain ⟨h, h5⟩ := append_parts h
  obtain ⟨h, h6⟩ := append_parts h
  obtain ⟨h, h7⟩ := append_parts h
  obtain ⟨h, h8⟩ := append_parts h
  obtain ⟨h, h9⟩ := append_parts h
  obtain ⟨h, h10⟩ := append_parts h
  obtain ⟨h, h11⟩ := append_parts h
  obtain ⟨h, h12⟩ := append_parts h
  obtain ⟨h, h13⟩ := append_parts h
  obtain ⟨h15, h14⟩ := append_parts h
  refine Vector.ext fun i hi => ?_
  interval_cases i <;> assumption

end Sys2Proof
end

