-- ==== Sys2Proof/Laws/State.lean ====
section
/-! SUPPORT. One lemma per field for each update of the state, so that no proof unfolds an update. -/

namespace Sys2Proof.Machine

/-! `emit` -/
@[simp] theorem emit_desc (e : Event) (s : State) : (emit e s).desc = s.desc := rfl
@[simp] theorem emit_latch (e : Event) (s : State) : (emit e s).latch = s.latch := rfl
@[simp] theorem emit_stepIndex (e : Event) (s : State) : (emit e s).stepIndex = s.stepIndex := rfl
@[simp] theorem emit_nsteps (e : Event) (s : State) : (emit e s).nsteps = s.nsteps := rfl
@[simp] theorem emit_seqState (e : Event) (s : State) : (emit e s).seqState = s.seqState := rfl
@[simp] theorem emit_phase (e : Event) (s : State) : (emit e s).phase = s.phase := rfl
@[simp] theorem emit_werr (e : Event) (s : State) : (emit e s).werr = s.werr := rfl
@[simp] theorem emit_fault (e : Event) (s : State) : (emit e s).fault = s.fault := rfl
@[simp] theorem emit_rej (e : Event) (s : State) : (emit e s).rej = s.rej := rfl
@[simp] theorem emit_cause (e : Event) (s : State) : (emit e s).cause = s.cause := rfl
@[simp] theorem emit_delay (e : Event) (s : State) : (emit e s).delay = s.delay := rfl
@[simp] theorem emit_werrcnt (e : Event) (s : State) : (emit e s).werrcnt = s.werrcnt := rfl
@[simp] theorem emit_lasterr (e : Event) (s : State) : (emit e s).lasterr = s.lasterr := rfl
@[simp] theorem emit_res (e : Event) (s : State) : (emit e s).res = s.res := rfl
@[simp] theorem emit_frame (e : Event) (s : State) : (emit e s).frame = s.frame := rfl
@[simp] theorem emit_cc (e : Event) (s : State) : (emit e s).cc = s.cc := rfl
@[simp] theorem emit_trace (e : Event) (s : State) : (emit e s).trace = s.trace ++ [e] := rfl
@[simp] theorem emit_rst (e : Event) (s : State) : (emit e s).rst = s.rst := rfl
@[simp] theorem emit_inputs (e : Event) (s : State) : (emit e s).inputs = s.inputs := rfl
@[simp] theorem emit_hostData (e : Event) (s : State) : (emit e s).hostData = s.hostData := rfl
@[simp] theorem emit_reading (e : Event) (s : State) : (emit e s).reading = s.reading := rfl

/-! `raiseFault` -/
@[simp] theorem raiseFault_desc (c : CommandFault) (s : State) : (raiseFault c s).desc = s.desc := rfl
@[simp] theorem raiseFault_latch (c : CommandFault) (s : State) : (raiseFault c s).latch = s.latch := rfl
@[simp] theorem raiseFault_stepIndex (c : CommandFault) (s : State) : (raiseFault c s).stepIndex = s.stepIndex := rfl
@[simp] theorem raiseFault_nsteps (c : CommandFault) (s : State) : (raiseFault c s).nsteps = 0 := rfl
@[simp] theorem raiseFault_seqState (c : CommandFault) (s : State) : (raiseFault c s).seqState = .complete := rfl
@[simp] theorem raiseFault_phase (c : CommandFault) (s : State) : (raiseFault c s).phase = .none := rfl
@[simp] theorem raiseFault_werr (c : CommandFault) (s : State) : (raiseFault c s).werr = s.werr := rfl
@[simp] theorem raiseFault_fault (c : CommandFault) (s : State) : (raiseFault c s).fault = true := rfl
@[simp] theorem raiseFault_rej (c : CommandFault) (s : State) : (raiseFault c s).rej = s.rej := rfl
@[simp] theorem raiseFault_cause (c : CommandFault) (s : State) : (raiseFault c s).cause = some c := rfl
@[simp] theorem raiseFault_delay (c : CommandFault) (s : State) : (raiseFault c s).delay = s.delay := rfl
@[simp] theorem raiseFault_werrcnt (c : CommandFault) (s : State) : (raiseFault c s).werrcnt = s.werrcnt := rfl
@[simp] theorem raiseFault_lasterr (c : CommandFault) (s : State) : (raiseFault c s).lasterr = s.lasterr := rfl
@[simp] theorem raiseFault_res (c : CommandFault) (s : State) : (raiseFault c s).res = s.res := rfl
@[simp] theorem raiseFault_frame (c : CommandFault) (s : State) : (raiseFault c s).frame = s.frame := rfl
@[simp] theorem raiseFault_cc (c : CommandFault) (s : State) : (raiseFault c s).cc = s.cc := rfl
@[simp] theorem raiseFault_trace (c : CommandFault) (s : State) : (raiseFault c s).trace = s.trace ++ [.fault c] := rfl
@[simp] theorem raiseFault_rst (c : CommandFault) (s : State) : (raiseFault c s).rst = s.rst := rfl
@[simp] theorem raiseFault_inputs (c : CommandFault) (s : State) : (raiseFault c s).inputs = s.inputs := rfl
@[simp] theorem raiseFault_hostData (c : CommandFault) (s : State) : (raiseFault c s).hostData = s.hostData := rfl
@[simp] theorem raiseFault_reading (c : CommandFault) (s : State) : (raiseFault c s).reading = s.reading := rfl

/-! `logWriteError` -/
@[simp] theorem logWriteError_desc (k : Word32) (s : State) : (logWriteError k s).desc = s.desc := rfl
@[simp] theorem logWriteError_latch (k : Word32) (s : State) : (logWriteError k s).latch = s.latch := rfl
@[simp] theorem logWriteError_stepIndex (k : Word32) (s : State) : (logWriteError k s).stepIndex = s.stepIndex := rfl
@[simp] theorem logWriteError_nsteps (k : Word32) (s : State) : (logWriteError k s).nsteps = s.nsteps := rfl
@[simp] theorem logWriteError_seqState (k : Word32) (s : State) : (logWriteError k s).seqState = s.seqState := rfl
@[simp] theorem logWriteError_phase (k : Word32) (s : State) : (logWriteError k s).phase = s.phase := rfl
@[simp] theorem logWriteError_werr (k : Word32) (s : State) : (logWriteError k s).werr = true := rfl
@[simp] theorem logWriteError_fault (k : Word32) (s : State) : (logWriteError k s).fault = s.fault := rfl
@[simp] theorem logWriteError_rej (k : Word32) (s : State) : (logWriteError k s).rej = s.rej := rfl
@[simp] theorem logWriteError_cause (k : Word32) (s : State) : (logWriteError k s).cause = s.cause := rfl
@[simp] theorem logWriteError_delay (k : Word32) (s : State) : (logWriteError k s).delay = s.delay := rfl
@[simp] theorem logWriteError_werrcnt (k : Word32) (s : State) : (logWriteError k s).werrcnt = s.werrcnt + 1 := rfl
@[simp] theorem logWriteError_lasterr (k : Word32) (s : State) : (logWriteError k s).lasterr = k := rfl
@[simp] theorem logWriteError_res (k : Word32) (s : State) : (logWriteError k s).res = s.res := rfl
@[simp] theorem logWriteError_frame (k : Word32) (s : State) : (logWriteError k s).frame = s.frame := rfl
@[simp] theorem logWriteError_cc (k : Word32) (s : State) : (logWriteError k s).cc = s.cc := rfl
@[simp] theorem logWriteError_trace (k : Word32) (s : State) : (logWriteError k s).trace = s.trace ++ [.writeError k] := rfl
@[simp] theorem logWriteError_rst (k : Word32) (s : State) : (logWriteError k s).rst = s.rst := rfl
@[simp] theorem logWriteError_inputs (k : Word32) (s : State) : (logWriteError k s).inputs = s.inputs := rfl
@[simp] theorem logWriteError_hostData (k : Word32) (s : State) : (logWriteError k s).hostData = s.hostData := rfl
@[simp] theorem logWriteError_reading (k : Word32) (s : State) : (logWriteError k s).reading = s.reading := rfl

/-! `beginStep` -/
@[simp] theorem beginStep_desc (c : Color) (s : State) : (beginStep c s).desc = s.desc := rfl
@[simp] theorem beginStep_latch (c : Color) (s : State) : (beginStep c s).latch = s.latch := rfl
@[simp] theorem beginStep_stepIndex (c : Color) (s : State) : (beginStep c s).stepIndex = s.stepIndex := rfl
@[simp] theorem beginStep_nsteps (c : Color) (s : State) : (beginStep c s).nsteps = s.nsteps := rfl
@[simp] theorem beginStep_seqState (c : Color) (s : State) : (beginStep c s).seqState = s.seqState := rfl
@[simp] theorem beginStep_phase (c : Color) (s : State) : (beginStep c s).phase = .att1 := rfl
@[simp] theorem beginStep_werr (c : Color) (s : State) : (beginStep c s).werr = s.werr := rfl
@[simp] theorem beginStep_fault (c : Color) (s : State) : (beginStep c s).fault = s.fault := rfl
@[simp] theorem beginStep_rej (c : Color) (s : State) : (beginStep c s).rej = s.rej := rfl
@[simp] theorem beginStep_cause (c : Color) (s : State) : (beginStep c s).cause = s.cause := rfl
@[simp] theorem beginStep_delay (c : Color) (s : State) : (beginStep c s).delay = s.delay := rfl
@[simp] theorem beginStep_werrcnt (c : Color) (s : State) : (beginStep c s).werrcnt = s.werrcnt := rfl
@[simp] theorem beginStep_lasterr (c : Color) (s : State) : (beginStep c s).lasterr = s.lasterr := rfl
@[simp] theorem beginStep_res (c : Color) (s : State) : (beginStep c s).res = c := rfl
@[simp] theorem beginStep_frame (c : Color) (s : State) : (beginStep c s).frame = encodeFrame c := rfl
@[simp] theorem beginStep_cc (c : Color) (s : State) : (beginStep c s).cc = s.cc := rfl
@[simp] theorem beginStep_trace (c : Color) (s : State) : (beginStep c s).trace = s.trace := rfl
@[simp] theorem beginStep_rst (c : Color) (s : State) : (beginStep c s).rst = s.rst := rfl
@[simp] theorem beginStep_inputs (c : Color) (s : State) : (beginStep c s).inputs = s.inputs := rfl
@[simp] theorem beginStep_hostData (c : Color) (s : State) : (beginStep c s).hostData = s.hostData := rfl
@[simp] theorem beginStep_reading (c : Color) (s : State) : (beginStep c s).reading = s.reading := rfl

/-! `latchColour` -/
@[simp] theorem latchColour_desc (c : Color) (s : State) : (latchColour c s).desc = s.desc := rfl
@[simp] theorem latchColour_latch (c : Color) (s : State) : (latchColour c s).latch = s.latch := rfl
@[simp] theorem latchColour_stepIndex (c : Color) (s : State) : (latchColour c s).stepIndex = s.stepIndex := rfl
@[simp] theorem latchColour_nsteps (c : Color) (s : State) : (latchColour c s).nsteps = s.nsteps := rfl
@[simp] theorem latchColour_seqState (c : Color) (s : State) : (latchColour c s).seqState = s.seqState := rfl
@[simp] theorem latchColour_phase (c : Color) (s : State) : (latchColour c s).phase = s.phase := rfl
@[simp] theorem latchColour_werr (c : Color) (s : State) : (latchColour c s).werr = s.werr := rfl
@[simp] theorem latchColour_fault (c : Color) (s : State) : (latchColour c s).fault = s.fault := rfl
@[simp] theorem latchColour_rej (c : Color) (s : State) : (latchColour c s).rej = s.rej := rfl
@[simp] theorem latchColour_cause (c : Color) (s : State) : (latchColour c s).cause = s.cause := rfl
@[simp] theorem latchColour_delay (c : Color) (s : State) : (latchColour c s).delay = s.delay := rfl
@[simp] theorem latchColour_werrcnt (c : Color) (s : State) : (latchColour c s).werrcnt = s.werrcnt := rfl
@[simp] theorem latchColour_lasterr (c : Color) (s : State) : (latchColour c s).lasterr = s.lasterr := rfl
@[simp] theorem latchColour_res (c : Color) (s : State) : (latchColour c s).res = s.res := rfl
@[simp] theorem latchColour_frame (c : Color) (s : State) : (latchColour c s).frame = s.frame := rfl
@[simp] theorem latchColour_cc (c : Color) (s : State) : (latchColour c s).cc = c := rfl
@[simp] theorem latchColour_trace (c : Color) (s : State) : (latchColour c s).trace = s.trace := rfl
@[simp] theorem latchColour_rst (c : Color) (s : State) : (latchColour c s).rst = s.rst := rfl
@[simp] theorem latchColour_inputs (c : Color) (s : State) : (latchColour c s).inputs = s.inputs := rfl
@[simp] theorem latchColour_hostData (c : Color) (s : State) : (latchColour c s).hostData = s.hostData := rfl
@[simp] theorem latchColour_reading (c : Color) (s : State) : (latchColour c s).reading = s.reading := rfl

/-! `launch`: the fields that do not depend on whether there is a step -/
@[simp] theorem launch_desc (n d : Nat) (c : Color) (s : State) : (launch n d c s).desc = s.desc := by
  unfold launch; dsimp only; split <;> rfl
@[simp] theorem launch_latch (n d : Nat) (c : Color) (s : State) : (launch n d c s).latch = s.latch := by
  unfold launch; dsimp only; split <;> rfl
@[simp] theorem launch_stepIndex (n d : Nat) (c : Color) (s : State) : (launch n d c s).stepIndex = 0 := by
  unfold launch; dsimp only; split <;> rfl
@[simp] theorem launch_nsteps (n d : Nat) (c : Color) (s : State) : (launch n d c s).nsteps = BitVec.ofNat 32 n := by
  unfold launch; dsimp only; split <;> rfl
@[simp] theorem launch_werr (n d : Nat) (c : Color) (s : State) : (launch n d c s).werr = s.werr := by
  unfold launch; dsimp only; split <;> rfl
@[simp] theorem launch_fault (n d : Nat) (c : Color) (s : State) : (launch n d c s).fault = s.fault := by
  unfold launch; dsimp only; split <;> rfl
@[simp] theorem launch_rej (n d : Nat) (c : Color) (s : State) : (launch n d c s).rej = s.rej := by
  unfold launch; dsimp only; split <;> rfl
@[simp] theorem launch_cause (n d : Nat) (c : Color) (s : State) : (launch n d c s).cause = s.cause := by
  unfold launch; dsimp only; split <;> rfl
@[simp] theorem launch_delay (n d : Nat) (c : Color) (s : State) : (launch n d c s).delay = BitVec.ofNat 32 d := by
  unfold launch; dsimp only; split <;> rfl
@[simp] theorem launch_werrcnt (n d : Nat) (c : Color) (s : State) : (launch n d c s).werrcnt = s.werrcnt := by
  unfold launch; dsimp only; split <;> rfl
@[simp] theorem launch_lasterr (n d : Nat) (c : Color) (s : State) : (launch n d c s).lasterr = s.lasterr := by
  unfold launch; dsimp only; split <;> rfl
@[simp] theorem launch_cc (n d : Nat) (c : Color) (s : State) : (launch n d c s).cc = s.cc := by
  unfold launch; dsimp only; split <;> rfl
@[simp] theorem launch_trace (n d : Nat) (c : Color) (s : State) : (launch n d c s).trace = s.trace := by
  unfold launch; dsimp only; split <;> rfl
@[simp] theorem launch_rst (n d : Nat) (c : Color) (s : State) : (launch n d c s).rst = s.rst := by
  unfold launch; dsimp only; split <;> rfl
@[simp] theorem launch_inputs (n d : Nat) (c : Color) (s : State) : (launch n d c s).inputs = s.inputs := by
  unfold launch; dsimp only; split <;> rfl
@[simp] theorem launch_hostData (n d : Nat) (c : Color) (s : State) : (launch n d c s).hostData = s.hostData := by
  unfold launch; dsimp only; split <;> rfl
@[simp] theorem launch_reading (n d : Nat) (c : Color) (s : State) : (launch n d c s).reading = s.reading := by
  unfold launch; dsimp only; split <;> rfl

/-! `answerFirst` -/
@[simp] theorem answerFirst_desc (r : Answer) (s : State) : (answerFirst r s).desc = s.desc := by
  cases r <;> rfl
@[simp] theorem answerFirst_latch (r : Answer) (s : State) : (answerFirst r s).latch = s.latch := by
  cases r <;> rfl
@[simp] theorem answerFirst_stepIndex (r : Answer) (s : State) : (answerFirst r s).stepIndex = s.stepIndex := by
  cases r <;> rfl
@[simp] theorem answerFirst_nsteps (r : Answer) (s : State) : (answerFirst r s).nsteps = s.nsteps := by
  cases r <;> rfl
@[simp] theorem answerFirst_seqState (r : Answer) (s : State) : (answerFirst r s).seqState = s.seqState := by
  cases r <;> rfl
@[simp] theorem answerFirst_phase (r : Answer) (s : State) : (answerFirst r s).phase = (if r = .ok then .wait else .att2) := by
  cases r <;> rfl
@[simp] theorem answerFirst_werr (r : Answer) (s : State) : (answerFirst r s).werr = s.werr := by
  cases r <;> rfl
@[simp] theorem answerFirst_fault (r : Answer) (s : State) : (answerFirst r s).fault = s.fault := by
  cases r <;> rfl
@[simp] theorem answerFirst_rej (r : Answer) (s : State) : (answerFirst r s).rej = s.rej := by
  cases r <;> rfl
@[simp] theorem answerFirst_cause (r : Answer) (s : State) : (answerFirst r s).cause = s.cause := by
  cases r <;> rfl
@[simp] theorem answerFirst_delay (r : Answer) (s : State) : (answerFirst r s).delay = s.delay := by
  cases r <;> rfl
@[simp] theorem answerFirst_werrcnt (r : Answer) (s : State) : (answerFirst r s).werrcnt = s.werrcnt := by
  cases r <;> rfl
@[simp] theorem answerFirst_lasterr (r : Answer) (s : State) : (answerFirst r s).lasterr = s.lasterr := by
  cases r <;> rfl
@[simp] theorem answerFirst_res (r : Answer) (s : State) : (answerFirst r s).res = s.res := by
  cases r <;> rfl
@[simp] theorem answerFirst_frame (r : Answer) (s : State) : (answerFirst r s).frame = s.frame := by
  cases r <;> rfl
@[simp] theorem answerFirst_cc (r : Answer) (s : State) : (answerFirst r s).cc = s.cc := by
  cases r <;> rfl
@[simp] theorem answerFirst_trace (r : Answer) (s : State) : (answerFirst r s).trace = s.trace ++ [.txAttempt s.stepIndex s.frame true r] := by
  cases r <;> rfl
@[simp] theorem answerFirst_rst (r : Answer) (s : State) : (answerFirst r s).rst = s.rst := by
  cases r <;> rfl
@[simp] theorem answerFirst_inputs (r : Answer) (s : State) : (answerFirst r s).inputs = s.inputs := by
  cases r <;> rfl
@[simp] theorem answerFirst_hostData (r : Answer) (s : State) : (answerFirst r s).hostData = s.hostData := by
  cases r <;> rfl
@[simp] theorem answerFirst_reading (r : Answer) (s : State) : (answerFirst r s).reading = s.reading := by
  cases r <;> rfl

/-! `answerSecond`: the fields that do not depend on the answer -/
@[simp] theorem answerSecond_desc (r : Answer) (s : State) : (answerSecond r s).desc = s.desc := by
  cases r <;> rfl
@[simp] theorem answerSecond_latch (r : Answer) (s : State) : (answerSecond r s).latch = s.latch := by
  cases r <;> rfl
@[simp] theorem answerSecond_stepIndex (r : Answer) (s : State) : (answerSecond r s).stepIndex = s.stepIndex := by
  cases r <;> rfl
@[simp] theorem answerSecond_nsteps (r : Answer) (s : State) : (answerSecond r s).nsteps = s.nsteps := by
  cases r <;> rfl
@[simp] theorem answerSecond_seqState (r : Answer) (s : State) : (answerSecond r s).seqState = s.seqState := by
  cases r <;> rfl
@[simp] theorem answerSecond_phase (r : Answer) (s : State) : (answerSecond r s).phase = .wait := by
  cases r <;> rfl
@[simp] theorem answerSecond_fault (r : Answer) (s : State) : (answerSecond r s).fault = s.fault := by
  cases r <;> rfl
@[simp] theorem answerSecond_rej (r : Answer) (s : State) : (answerSecond r s).rej = s.rej := by
  cases r <;> rfl
@[simp] theorem answerSecond_cause (r : Answer) (s : State) : (answerSecond r s).cause = s.cause := by
  cases r <;> rfl
@[simp] theorem answerSecond_delay (r : Answer) (s : State) : (answerSecond r s).delay = s.delay := by
  cases r <;> rfl
@[simp] theorem answerSecond_res (r : Answer) (s : State) : (answerSecond r s).res = s.res := by
  cases r <;> rfl
@[simp] theorem answerSecond_frame (r : Answer) (s : State) : (answerSecond r s).frame = s.frame := by
  cases r <;> rfl
@[simp] theorem answerSecond_cc (r : Answer) (s : State) : (answerSecond r s).cc = s.cc := by
  cases r <;> rfl
@[simp] theorem answerSecond_rst (r : Answer) (s : State) : (answerSecond r s).rst = s.rst := by
  cases r <;> rfl
@[simp] theorem answerSecond_inputs (r : Answer) (s : State) : (answerSecond r s).inputs = s.inputs := by
  cases r <;> rfl
@[simp] theorem answerSecond_hostData (r : Answer) (s : State) : (answerSecond r s).hostData = s.hostData := by
  cases r <;> rfl
@[simp] theorem answerSecond_reading (r : Answer) (s : State) : (answerSecond r s).reading = s.reading := by
  cases r <;> rfl

/-! `endWait` -/
@[simp] theorem endWait_desc (s : State) : (endWait s).desc = s.desc := rfl
@[simp] theorem endWait_latch (s : State) : (endWait s).latch = s.latch := rfl
@[simp] theorem endWait_stepIndex (s : State) : (endWait s).stepIndex = s.stepIndex + 1 := rfl
@[simp] theorem endWait_nsteps (s : State) : (endWait s).nsteps = s.nsteps := rfl
@[simp] theorem endWait_seqState (s : State) : (endWait s).seqState = s.seqState := rfl
@[simp] theorem endWait_phase (s : State) : (endWait s).phase = s.phase := rfl
@[simp] theorem endWait_werr (s : State) : (endWait s).werr = s.werr := rfl
@[simp] theorem endWait_fault (s : State) : (endWait s).fault = s.fault := rfl
@[simp] theorem endWait_rej (s : State) : (endWait s).rej = s.rej := rfl
@[simp] theorem endWait_cause (s : State) : (endWait s).cause = s.cause := rfl
@[simp] theorem endWait_delay (s : State) : (endWait s).delay = s.delay := rfl
@[simp] theorem endWait_werrcnt (s : State) : (endWait s).werrcnt = s.werrcnt := rfl
@[simp] theorem endWait_lasterr (s : State) : (endWait s).lasterr = s.lasterr := rfl
@[simp] theorem endWait_res (s : State) : (endWait s).res = s.res := rfl
@[simp] theorem endWait_frame (s : State) : (endWait s).frame = s.frame := rfl
@[simp] theorem endWait_cc (s : State) : (endWait s).cc = s.cc := rfl
@[simp] theorem endWait_trace (s : State) : (endWait s).trace = s.trace ++ [.wait s.stepIndex s.delay] := rfl
@[simp] theorem endWait_rst (s : State) : (endWait s).rst = s.rst := rfl
@[simp] theorem endWait_inputs (s : State) : (endWait s).inputs = s.inputs := rfl
@[simp] theorem endWait_hostData (s : State) : (endWait s).hostData = s.hostData := rfl
@[simp] theorem endWait_reading (s : State) : (endWait s).reading = s.reading := rfl

/-! `writeDesc`: the fields that it never changes -/
@[simp] theorem writeDesc_latch (k : Nat) (v : Byte) (s : State) : (writeDesc k v s).latch = s.latch := by
  unfold writeDesc; split <;> rfl
@[simp] theorem writeDesc_stepIndex (k : Nat) (v : Byte) (s : State) : (writeDesc k v s).stepIndex = s.stepIndex := by
  unfold writeDesc; split <;> rfl
@[simp] theorem writeDesc_nsteps (k : Nat) (v : Byte) (s : State) : (writeDesc k v s).nsteps = s.nsteps := by
  unfold writeDesc; split <;> rfl
@[simp] theorem writeDesc_seqState (k : Nat) (v : Byte) (s : State) : (writeDesc k v s).seqState = s.seqState := by
  unfold writeDesc; split <;> rfl
@[simp] theorem writeDesc_phase (k : Nat) (v : Byte) (s : State) : (writeDesc k v s).phase = s.phase := by
  unfold writeDesc; split <;> rfl
@[simp] theorem writeDesc_werr (k : Nat) (v : Byte) (s : State) : (writeDesc k v s).werr = s.werr := by
  unfold writeDesc; split <;> rfl
@[simp] theorem writeDesc_fault (k : Nat) (v : Byte) (s : State) : (writeDesc k v s).fault = s.fault := by
  unfold writeDesc; split <;> rfl
@[simp] theorem writeDesc_cause (k : Nat) (v : Byte) (s : State) : (writeDesc k v s).cause = s.cause := by
  unfold writeDesc; split <;> rfl
@[simp] theorem writeDesc_delay (k : Nat) (v : Byte) (s : State) : (writeDesc k v s).delay = s.delay := by
  unfold writeDesc; split <;> rfl
@[simp] theorem writeDesc_werrcnt (k : Nat) (v : Byte) (s : State) : (writeDesc k v s).werrcnt = s.werrcnt := by
  unfold writeDesc; split <;> rfl
@[simp] theorem writeDesc_lasterr (k : Nat) (v : Byte) (s : State) : (writeDesc k v s).lasterr = s.lasterr := by
  unfold writeDesc; split <;> rfl
@[simp] theorem writeDesc_res (k : Nat) (v : Byte) (s : State) : (writeDesc k v s).res = s.res := by
  unfold writeDesc; split <;> rfl
@[simp] theorem writeDesc_frame (k : Nat) (v : Byte) (s : State) : (writeDesc k v s).frame = s.frame := by
  unfold writeDesc; split <;> rfl
@[simp] theorem writeDesc_cc (k : Nat) (v : Byte) (s : State) : (writeDesc k v s).cc = s.cc := by
  unfold writeDesc; split <;> rfl
@[simp] theorem writeDesc_trace (k : Nat) (v : Byte) (s : State) : (writeDesc k v s).trace = s.trace := by
  unfold writeDesc; split <;> rfl
@[simp] theorem writeDesc_rst (k : Nat) (v : Byte) (s : State) : (writeDesc k v s).rst = s.rst := by
  unfold writeDesc; split <;> rfl
@[simp] theorem writeDesc_inputs (k : Nat) (v : Byte) (s : State) : (writeDesc k v s).inputs = s.inputs := by
  unfold writeDesc; split <;> rfl
@[simp] theorem writeDesc_hostData (k : Nat) (v : Byte) (s : State) : (writeDesc k v s).hostData = s.hostData := by
  unfold writeDesc; split <;> rfl
@[simp] theorem writeDesc_reading (k : Nat) (v : Byte) (s : State) : (writeDesc k v s).reading = s.reading := by
  unfold writeDesc; split <;> rfl

/-! `resetBlock` -/
@[simp] theorem resetBlock_desc (b : Bool) (s : State) : (resetBlock b s).desc = State.reset.desc := rfl
@[simp] theorem resetBlock_latch (b : Bool) (s : State) : (resetBlock b s).latch = State.reset.latch := rfl
@[simp] theorem resetBlock_stepIndex (b : Bool) (s : State) : (resetBlock b s).stepIndex = State.reset.stepIndex := rfl
@[simp] theorem resetBlock_nsteps (b : Bool) (s : State) : (resetBlock b s).nsteps = State.reset.nsteps := rfl
@[simp] theorem resetBlock_seqState (b : Bool) (s : State) : (resetBlock b s).seqState = State.reset.seqState := rfl
@[simp] theorem resetBlock_phase (b : Bool) (s : State) : (resetBlock b s).phase = State.reset.phase := rfl
@[simp] theorem resetBlock_werr (b : Bool) (s : State) : (resetBlock b s).werr = State.reset.werr := rfl
@[simp] theorem resetBlock_fault (b : Bool) (s : State) : (resetBlock b s).fault = State.reset.fault := rfl
@[simp] theorem resetBlock_rej (b : Bool) (s : State) : (resetBlock b s).rej = State.reset.rej := rfl
@[simp] theorem resetBlock_cause (b : Bool) (s : State) : (resetBlock b s).cause = State.reset.cause := rfl
@[simp] theorem resetBlock_delay (b : Bool) (s : State) : (resetBlock b s).delay = State.reset.delay := rfl
@[simp] theorem resetBlock_werrcnt (b : Bool) (s : State) : (resetBlock b s).werrcnt = State.reset.werrcnt := rfl
@[simp] theorem resetBlock_lasterr (b : Bool) (s : State) : (resetBlock b s).lasterr = State.reset.lasterr := rfl
@[simp] theorem resetBlock_res (b : Bool) (s : State) : (resetBlock b s).res = State.reset.res := rfl
@[simp] theorem resetBlock_frame (b : Bool) (s : State) : (resetBlock b s).frame = State.reset.frame := rfl
@[simp] theorem resetBlock_cc (b : Bool) (s : State) : (resetBlock b s).cc = State.reset.cc := rfl
@[simp] theorem resetBlock_trace (b : Bool) (s : State) : (resetBlock b s).trace = State.reset.trace := rfl
@[simp] theorem resetBlock_rst (b : Bool) (s : State) : (resetBlock b s).rst = b := rfl
@[simp] theorem resetBlock_inputs (b : Bool) (s : State) : (resetBlock b s).inputs = s.inputs := rfl
@[simp] theorem resetBlock_hostData (b : Bool) (s : State) : (resetBlock b s).hostData = s.hostData := rfl
@[simp] theorem resetBlock_reading (b : Bool) (s : State) : (resetBlock b s).reading = s.reading := rfl

end Sys2Proof.Machine
end

