-- ==== Sys2Proof/Laws/Ops.lean ====
section
/-! SUPPORT. For each shared operation, once, everything that it can do: proofs cite these instead of unfolding it. -/

namespace Sys2Proof.Machine

/-! ### Launch and the operations -/

/-- A launch of no step ends the run at once (R173). -/
theorem launch_of_no_step {n : Nat} (h : BitVec.ofNat 32 n = 0) (d : Nat) (c : Color) (s : State) :
    launch n d c s = { s with
      nsteps := 0, delay := BitVec.ofNat 32 d, stepIndex := 0, seqState := .complete, phase := .none } := by
  rw [launch, if_pos h, h]

/-- A launch of some step begins step 0 (R173). -/
theorem launch_of_steps {n : Nat} (h : BitVec.ofNat 32 n ≠ 0) (d : Nat) (c : Color) (s : State) :
    launch n d c s = beginStep c { s with
      nsteps := BitVec.ofNat 32 n, delay := BitVec.ofNat 32 d, stepIndex := 0, seqState := .running } := by
  rw [launch, if_neg h]

/-- An operation whose operands are illegal takes a command fault (R97 check 3). -/
theorem exec_of_ill_formed {i : Instr} (h : i.wellFormed = false) (s : State) :
    ∃ c, exec i s = .next (raiseFault c s) := by
  cases i with
  | encode => cases h
  | compensate => cases h
  | setcolor => cases h
  | flash => cases h
  | hsl2rgb hnum hden snum sden lnum lden =>
    have h' : (fractionLegal hnum hden && fractionLegal snum sden && fractionLegal lnum lden) = false := h
    exact ⟨_, by rw [exec, execHsl2rgb, h']; rfl⟩
  | pulse _ _ _ _ steps =>
    have h' : stepsLegal steps = false := h
    exact ⟨_, by rw [exec, execPulse, h']; rfl⟩
  | smooth _ _ _ _ _ steps =>
    have h' : stepsLegal steps = false := h
    exact ⟨_, by rw [exec, execSmooth, h']; rfl⟩
  | rainbow _ steps =>
    have h' : stepsLegal steps = false := h
    exact ⟨_, by rw [exec, execRainbow, h']; rfl⟩
  | running _ _ _ _ steps =>
    have h' : stepsLegal steps = false := h
    exact ⟨_, by rw [exec, execRunning, h']; rfl⟩

/-- A legal function operation writes FRAME or RES and nothing else (R172). -/
theorem exec_of_function {i : Instr} (hw : i.wellFormed = true) (hf : i.isSequence = false) (s : State) :
    (∃ f, exec i s = .next { s with frame := f }) ∨ ∃ c, exec i s = .next { s with res := c } := by
  cases i <;> simp_all [Instr.wellFormed, Instr.isSequence, exec, execEncode, execCompensate, execHsl2rgb, fractionOk,
    fractionLegal]

/-- A legal sequence operation launches its generator, CC latched first where it has a latch (R173). -/
theorem exec_of_sequence {i : Instr} (hw : i.wellFormed = true) (hf : i.isSequence = true) (s : State) :
    exec i s = .next (launch (seqSteps i) (seqDelay i)
      ((seqColour ((seqLatch i).getD s.cc) 0 i).getD Color.black) (latchColour ((seqLatch i).getD s.cc) s)) := by
  cases i <;> simp_all [Instr.wellFormed, Instr.isSequence, exec, execSetcolor, execPulse, execSmooth, execFlash,
    execRainbow, execRunning, seqSteps, seqDelay, seqColour, seqLatch, stepsOk, stepsLegal, latchColour]

/-- Every operation answers a next state, whatever its operands. -/
theorem exec_next (i : Instr) (s : State) : ∃ t, exec i s = .next t := by
  cases hw : i.wellFormed with
  | false => exact (exec_of_ill_formed hw s).imp' _ fun _ h => h
  | true =>
    cases hf : i.isSequence with
    | true => exact ⟨_, exec_of_sequence hw hf s⟩
    | false => exact (exec_of_function hw hf s).elim (fun ⟨_, h⟩ => ⟨_, h⟩) fun ⟨_, h⟩ => ⟨_, h⟩

/-! ### The host port -/

/-- Which accesses reach the block (R63). -/
theorem accessInSpace_iff {a n : Nat} : accessInSpace a n = true ↔ 1 ≤ n ∧ n ≤ 16 ∧ a + n ≤ 64 := by
  unfold accessInSpace
  rw [Bool.and_eq_true, Bool.and_eq_true, decide_eq_true_eq, decide_eq_true_eq, decide_eq_true_eq, and_assoc]
  exact Iff.rfl

/-- What START can do (R171). -/
theorem start_cases {s t : State} (h : start s = .next t) :
    (s.seqState ≠ .idle ∧ t = { s with rej := true }) ∨
    (s.seqState = .idle ∧ ∃ c, decode s.desc = .error c ∧ t = raiseFault c { s with latch := s.desc }) ∨
    (s.seqState = .idle ∧ ∃ i, decode s.desc = .ok i ∧ exec i { s with latch := s.desc } = .next t) := by
  unfold start at h
  by_cases hi : s.seqState = .idle
  · simp only [hi, if_true] at h
    cases hd : decode s.desc with
    | ok i => exact .inr (.inr ⟨hi, i, rfl, by simpa [hd, hi] using h⟩)
    | error c => exact .inr (.inl ⟨hi, c, rfl, by simpa [hd, hi] using h.symm⟩)
  · simp only [hi, if_false, Host.Outcome.next.injEq] at h
    exact .inl ⟨hi, h.symm⟩

/-- START always answers a next state. -/
theorem start_next (s : State) : ∃ t, start s = .next t := by
  unfold start
  by_cases hi : s.seqState = .idle
  · simp only [hi, if_true]
    cases decode s.desc with
    | ok i => exact exec_next i _
    | error c => exact ⟨_, rfl⟩
  · simp only [hi, if_false]; exact ⟨_, rfl⟩

/-- What the host's write of one byte can do (R64). -/
theorem writeByte_cases {a : Nat} {v : Byte} {s t : State} (h : writeByte a v s = .next t) :
    t = s ∨ (s.rst = false ∧ a < 16 ∧ t = writeDesc a v s) ∨
      (s.rst = false ∧ a = 16 ∧ v.getLsbD 0 = true ∧ start s = .next t) := by
  unfold writeByte writeCtrl at h
  cases hr : s.rst with
  | true => simp [hr] at h; exact .inl h.symm
  | false =>
    by_cases ha : a < 16
    · simp [hr, ha] at h; exact .inr (.inl ⟨rfl, ha, h.symm⟩)
    · by_cases hb : a = 16
      · cases hv : v.getLsbD 0 with
        | true =>
          rw [hv] at h; simp [hr, hb] at h
          exact .inr (.inr ⟨rfl, hb, rfl, h⟩)
        | false => rw [hv] at h; simp [hr, hb] at h; exact .inl h.symm
      · simp [hr, ha, hb] at h; exact .inl h.symm

/-- Everything that the host's write of one byte can do, down to the registers: nothing; REJ outside Idle; and in Idle a byte
of DESC, a command fault, a function's result, or the launch of a sequence (R64, R171, R172, R173). -/
theorem writeByte_effects {a : Nat} {v : Byte} {s t : State} (h : writeByte a v s = .next t) :
    t = s ∨ (s.rst = false ∧ s.seqState ≠ .idle ∧ t = { s with rej := true }) ∨
      (s.rst = false ∧ s.seqState = .idle ∧
        ((∃ d, t = { s with desc := d }) ∨ (∃ c, t = raiseFault c { s with latch := s.desc }) ∨
          (∃ f, t = { s with latch := s.desc, frame := f }) ∨ (∃ c, t = { s with latch := s.desc, res := c }) ∨
          ∃ i, decode s.desc = .ok i ∧ i.wellFormed = true ∧ i.isSequence = true ∧
            t = launch (seqSteps i) (seqDelay i) ((seqColour ((seqLatch i).getD s.cc) 0 i).getD Color.black)
              (latchColour ((seqLatch i).getD s.cc) { s with latch := s.desc }))) := by
  obtain rfl | ⟨hr, -, rfl⟩ | ⟨hr, -, -, h⟩ := writeByte_cases h
  · exact .inl rfl
  · by_cases hi : s.seqState = .idle
    · exact .inr (.inr ⟨hr, hi, .inl ⟨_, by rw [writeDesc, if_pos hi]⟩⟩)
    · exact .inr (.inl ⟨hr, hi, by rw [writeDesc, if_neg hi]⟩)
  · obtain ⟨hi, rfl⟩ | ⟨hi, c, -, rfl⟩ | ⟨hi, i, hd, h⟩ := start_cases h
    · exact .inr (.inl ⟨hr, hi, rfl⟩)
    · exact .inr (.inr ⟨hr, hi, .inr (.inl ⟨c, rfl⟩)⟩)
    · refine .inr (.inr ⟨hr, hi, .inr ?_⟩)
      cases hw : i.wellFormed with
      | false =>
        obtain ⟨c, hc⟩ := exec_of_ill_formed hw { s with latch := s.desc }
        rw [h] at hc
        exact .inl ⟨c, Host.Outcome.next.inj hc⟩
      | true =>
        cases hf : i.isSequence with
        | false =>
          obtain ⟨f, hc⟩ | ⟨c, hc⟩ := exec_of_function hw hf { s with latch := s.desc }
          · rw [h] at hc; exact .inr (.inl ⟨f, Host.Outcome.next.inj hc⟩)
          · rw [h] at hc; exact .inr (.inr (.inl ⟨c, Host.Outcome.next.inj hc⟩))
        | true =>
          rw [exec_of_sequence hw hf] at h
          exact .inr (.inr (.inr ⟨i, hd, hw, hf, (Host.Outcome.next.inj h).symm⟩))

/-- A byte write always answers a next state. -/
theorem writeByte_next (a : Nat) (v : Byte) (s : State) : ∃ t, writeByte a v s = .next t := by
  unfold writeByte writeCtrl
  split
  · exact ⟨_, rfl⟩
  · split
    · exact ⟨_, rfl⟩
    · split
      · split
        · exact start_next s
        · exact ⟨_, rfl⟩
      · exact ⟨_, rfl⟩

/-- A relation that every byte write is in, and that composes, holds across a write of many bytes (R63). -/
theorem writeBytes_rel {R : State → State → Prop} (hrefl : ∀ s, R s s)
    (htrans : ∀ s t u, R s t → R t u → R s u)
    (hbyte : ∀ a v s t, writeByte a v s = .next t → R s t) :
    ∀ (vs : List Byte) (a : Nat) (s t : State), writeBytes a vs s = .next t → R s t
  | [], _, s, t, h => by
    simp only [writeBytes, Host.Outcome.next.injEq] at h
    exact h ▸ hrefl s
  | v :: vs, a, s, t, h => by
    obtain ⟨u, hu⟩ := writeByte_next a v s
    simp only [writeBytes, hu] at h
    exact htrans _ _ _ (hbyte _ _ _ _ hu) (writeBytes_rel hrefl htrans hbyte vs (a + 1) u t h)

/-- A property that a byte write keeps, a write of many bytes keeps. -/
theorem writeBytes_keeps {P : State → Prop} (hbyte : ∀ a v s t, P s → writeByte a v s = .next t → P t)
    {vs : List Byte} {a : Nat} {s t : State} (hs : P s) (h : writeBytes a vs s = .next t) : P t :=
  writeBytes_rel (R := fun s t => P s → P t) (fun _ h => h) (fun _ _ _ hst htu h => htu (hst h))
    (fun a v s t h hs => hbyte a v s t hs h) vs a s t h hs

/-- A write of many bytes always answers a next state. -/
theorem writeBytes_next : ∀ (vs : List Byte) (a : Nat) (s : State), ∃ t, writeBytes a vs s = .next t
  | [], _, s => ⟨s, rfl⟩
  | v :: vs, a, s => by
    obtain ⟨u, hu⟩ := writeByte_next a v s
    obtain ⟨t, ht⟩ := writeBytes_next vs (a + 1) u
    exact ⟨t, by simp only [writeBytes, hu, ht]⟩

/-- A write of two parts is the write of the first and then of the second. -/
theorem writeBytes_append : ∀ (xs ys : List Byte) (a : Nat) (s t : State), writeBytes a xs s = .next t →
    writeBytes a (xs ++ ys) s = writeBytes (a + xs.length) ys t
  | [], ys, a, s, t, h => by
    simp only [writeBytes, Host.Outcome.next.injEq] at h
    simp [h]
  | x :: xs, ys, a, s, t, h => by
    obtain ⟨u, hu⟩ := writeByte_next a x s
    simp only [writeBytes, hu] at h
    simp only [List.cons_append, writeBytes, hu, writeBytes_append xs ys (a + 1) u t h, List.length_cons]
    congr 1; omega

/-! ### The micro-steps -/

/-- What the end of a wait can do (R176). -/
theorem advance_cases {s t : State} (h : advance s = .next t) :
    (s.stepIndex + 1 = s.nsteps ∧ t = { endWait s with seqState := .complete, phase := .none }) ∨
    (s.stepIndex + 1 ≠ s.nsteps ∧ ∃ i c, decode s.latch = .ok i ∧
      stepColour i s.cc (s.stepIndex + 1).toNat = some c ∧ t = beginStep c (endWait s)) := by
  unfold advance at h
  by_cases hn : s.stepIndex + 1 = s.nsteps
  · rw [if_pos hn] at h
    exact .inl ⟨hn, (Host.Outcome.next.inj h).symm⟩
  · rw [if_neg hn, latchedColour, endWait_latch] at h
    cases hd : decode s.latch with
    | error c => rw [hd] at h; cases h
    | ok i =>
      rw [hd] at h
      simp only [endWait_cc, endWait_stepIndex] at h
      cases hc : stepColour i s.cc (s.stepIndex + 1).toNat with
      | none => rw [hc] at h; cases h
      | some c =>
        rw [hc] at h
        exact .inr ⟨hn, i, c, rfl, hc, (Host.Outcome.next.inj h).symm⟩

/-- What one step can do. -/
theorem step_cases {s t : State} (h : step s = .next t) :
    (s.inputs = [] ∧ t = s) ∨
    (∃ a vs rest, s.inputs = .memWrite a vs :: rest ∧ accessInSpace a vs.length = true ∧
      writeBytes a vs { s with inputs := rest } = .next t) ∨
    (∃ i rest d as, s.inputs = i :: rest ∧
      ((∃ a n, i = .memRead a n ∧ accessInSpace a n = true ∧ d = [] ∧ as = List.range' a n) ∨
        ∃ a, i = .readByte a ∧ a ∈ s.reading ∧ d = s.hostData ++ [(a, regByte a s)] ∧ as = s.reading.erase a) ∧
      t = { s with inputs := rest, hostData := d, reading := as }) ∨
    (∃ r rest, s.inputs = .ans r :: rest ∧ s.seqState = .running ∧ s.phase = .att1 ∧
      t = answerFirst r { s with inputs := rest }) ∨
    (∃ r rest, s.inputs = .ans r :: rest ∧ s.seqState = .running ∧ s.phase = .att2 ∧
      t = answerSecond r { s with inputs := rest }) ∨
    (∃ rest, s.inputs = .tick :: rest ∧ s.seqState = .running ∧ s.phase = .wait ∧
      advance { s with inputs := rest } = .next t) ∨
    (∃ b rest, s.inputs = .rst b :: rest ∧ t = setReset b { s with inputs := rest }) := by
  unfold step at h
  match hi : s.inputs with
  | [] => rw [hi] at h; simp at h; exact .inl ⟨rfl, h.symm⟩
  | .memWrite a vs :: rest =>
    rw [hi] at h
    simp only [deliver, hostWrite] at h
    split at h
    · next hs => exact .inr (.inl ⟨a, vs, rest, rfl, hs, h⟩)
    · simp at h
  | .memRead a n :: rest =>
    rw [hi] at h
    simp only [deliver, hostRead] at h
    split at h
    · next hs =>
      simp only [Host.Outcome.next.injEq] at h
      exact .inr (.inr (.inl ⟨_, rest, _, _, rfl, .inl ⟨a, n, rfl, hs, rfl, rfl⟩, h.symm⟩))
    · simp at h
  | .readByte a :: rest =>
    rw [hi] at h
    simp only [deliver, takeByte] at h
    split at h
    · next hs =>
      simp only [Host.Outcome.next.injEq] at h
      exact .inr (.inr (.inl ⟨_, rest, _, _, rfl, .inr ⟨a, rfl, hs, rfl, rfl⟩, h.symm⟩))
    · simp at h
  | .ans r :: rest =>
    rw [hi] at h
    simp only [deliver, transportAnswer] at h
    split at h
    · next hr =>
      split at h
      · next hp => simp only [Host.Outcome.next.injEq] at h; exact .inr (.inr (.inr (.inl ⟨r, rest, rfl, hr, hp, h.symm⟩)))
      · next hp =>
        simp only [Host.Outcome.next.injEq] at h
        exact .inr (.inr (.inr (.inr (.inl ⟨r, rest, rfl, hr, hp, h.symm⟩))))
      · simp at h
      · simp at h
    · simp at h
  | .tick :: rest =>
    rw [hi] at h
    simp only [deliver, waitOver] at h
    split at h
    · next hr =>
      split at h
      · next hp => exact .inr (.inr (.inr (.inr (.inr (.inl ⟨rest, rfl, hr, hp, h⟩)))))
      · simp at h
      · simp at h
      · simp at h
    · simp at h
  | .rst b :: rest =>
    rw [hi] at h
    simp only [deliver, Host.Outcome.next.injEq] at h
    exact .inr (.inr (.inr (.inr (.inr (.inr ⟨b, rest, rfl, h.symm⟩)))))

end Sys2Proof.Machine
end

