-- ==== Sys2Proof/Laws/PerInstr.lean ====
section
/-! SUPPORT. The statements made of each operation as syntax, with one lemma per constructor. -/

namespace Sys2Proof.Laws

/-- The descriptor of `i` matches the row of spec/opcode_table.json that has its opcode (R94): the opcode byte and every
byte that must be zero are as the row's `match` and `mask` say. -/
def TableRowMatches.Statement (i : Instr) : Prop :=
  ∃ row ∈ opcodeTable, row.opcode = opcode i ∧ wordOfDescriptor (encode i) &&& row.mask = row.pattern

/-- The word of a descriptor masked by the word of `m` is the word of `p`, if it is so byte by byte. -/
theorem TableRowMatches.of_bytes {d m p : Descriptor} {row : TableRow} (hm : wordOfDescriptor m = row.mask)
    (hp : wordOfDescriptor p = row.pattern) (h : ∀ k, d.get k &&& m.get k = p.get k) :
    wordOfDescriptor d &&& row.mask = row.pattern := by
  rw [← hm, ← hp, wordOfDescriptor_and]
  exact congrArg wordOfDescriptor (Vector.ext fun k hk => by rw [Vector.getElem_ofFn]; exact h ⟨k, hk⟩)

/-- The `match` word of an opcode: the opcode in byte 0, zero elsewhere. -/
def TableRowMatches.patternBytes (op : Byte) : Descriptor := #v[op, 0, 0, 0, 0, 0, 0, 0, 0, 0, 0, 0, 0, 0, 0, 0]

/-- The mask byte that keeps a byte. -/
theorem TableRowMatches.byte_and_ones (x : Byte) : x &&& 0xFF#8 = x := BitVec.and_allOnes

/-- Closing step of every lemma below: the sixteen bytes, one at a time. -/
theorem TableRowMatches.bytes_all {d m p : Descriptor} (h : ∀ k (hk : k < 16), d[k] &&& m[k] = p[k]) (k : Fin 16) :
    d.get k &&& m.get k = p.get k := h k.1 k.2

theorem TableRowMatches.encode (r g b : Byte) : TableRowMatches.Statement (.encode r g b) :=
  ⟨opcodeTable[0], by simp [opcodeTable], rfl,
    of_bytes (m := #v[0xFF, 0, 0, 0, 0xFF, 0xFF, 0xFF, 0xFF, 0xFF, 0xFF, 0xFF, 0xFF, 0xFF, 0xFF, 0xFF, 0xFF])
      (p := patternBytes 0x01) (by decide) (by decide)
      (bytes_all fun k hk => by interval_cases k <;> simp [Sys2Proof.encode, formatC, patternBytes])⟩

theorem TableRowMatches.compensate (r g b bri : Byte) : TableRowMatches.Statement (.compensate r g b bri) :=
  ⟨opcodeTable[1], by simp [opcodeTable], rfl,
    of_bytes (m := #v[0xFF, 0, 0, 0, 0, 0xFF, 0xFF, 0xFF, 0xFF, 0xFF, 0xFF, 0xFF, 0xFF, 0xFF, 0xFF, 0xFF])
      (p := patternBytes 0x02) (by decide) (by decide)
      (bytes_all fun k hk => by interval_cases k <;> simp [Sys2Proof.encode, formatC, patternBytes])⟩

theorem TableRowMatches.hsl2rgb (hnum hden snum sden lnum lden : Half) :
    TableRowMatches.Statement (.hsl2rgb hnum hden snum sden lnum lden) :=
  ⟨opcodeTable[2], by simp [opcodeTable], rfl,
    of_bytes (m := #v[0xFF, 0xFF, 0xFF, 0xFF, 0, 0, 0, 0, 0, 0, 0, 0, 0, 0, 0, 0])
      (p := patternBytes 0x03) (by decide) (by decide)
      (bytes_all fun k hk => by interval_cases k <;> simp [Sys2Proof.encode, formatH, patternBytes])⟩

theorem TableRowMatches.setcolor (r g b bri : Byte) : TableRowMatches.Statement (.setcolor r g b bri) :=
  ⟨opcodeTable[3], by simp [opcodeTable], rfl,
    of_bytes (m := #v[0xFF, 0, 0, 0, 0, 0xFF, 0xFF, 0xFF, 0xFF, 0xFF, 0xFF, 0xFF, 0xFF, 0xFF, 0xFF, 0xFF])
      (p := patternBytes 0x10) (by decide) (by decide)
      (bytes_all fun k hk => by interval_cases k <;> simp [Sys2Proof.encode, formatC, patternBytes])⟩

theorem TableRowMatches.pulse (r g b bri : Byte) (steps : Half) (dur : Word32) :
    TableRowMatches.Statement (.pulse r g b bri steps dur) :=
  ⟨opcodeTable[4], by simp [opcodeTable], rfl,
    of_bytes (m := #v[0xFF, 0, 0, 0, 0, 0xFF, 0, 0, 0, 0, 0, 0, 0xFF, 0xFF, 0xFF, 0xFF])
      (p := patternBytes 0x11) (by decide) (by decide)
      (bytes_all fun k hk => by interval_cases k <;> simp [Sys2Proof.encode, formatA, patternBytes])⟩

theorem TableRowMatches.smooth (r g b bri bri2 : Byte) (steps : Half) (dur : Word32) :
    TableRowMatches.Statement (.smooth r g b bri bri2 steps dur) :=
  ⟨opcodeTable[5], by simp [opcodeTable], rfl,
    of_bytes (m := #v[0xFF, 0, 0, 0, 0, 0, 0, 0, 0, 0, 0, 0, 0xFF, 0xFF, 0xFF, 0xFF])
      (p := patternBytes 0x12) (by decide) (by decide)
      (bytes_all fun k hk => by interval_cases k <;> simp [Sys2Proof.encode, formatA, patternBytes])⟩

theorem TableRowMatches.flash (r g b bri : Byte) (count : Half) (onOff : Word32) :
    TableRowMatches.Statement (.flash r g b bri count onOff) :=
  ⟨opcodeTable[6], by simp [opcodeTable], rfl,
    of_bytes (m := #v[0xFF, 0, 0, 0, 0, 0xFF, 0, 0, 0, 0, 0, 0, 0xFF, 0xFF, 0xFF, 0xFF])
      (p := patternBytes 0x13) (by decide) (by decide)
      (bytes_all fun k hk => by interval_cases k <;> simp [Sys2Proof.encode, formatA, patternBytes])⟩

theorem TableRowMatches.rainbow (bri : Byte) (steps : Half) (dur : Word32) :
    TableRowMatches.Statement (.rainbow bri steps dur) :=
  ⟨opcodeTable[7], by simp [opcodeTable], rfl,
    of_bytes (m := #v[0xFF, 0xFF, 0xFF, 0xFF, 0, 0xFF, 0, 0, 0, 0, 0, 0, 0xFF, 0xFF, 0xFF, 0xFF])
      (p := patternBytes 0x14) (by decide) (by decide)
      (bytes_all fun k hk => by interval_cases k <;> simp [Sys2Proof.encode, formatA, patternBytes])⟩

theorem TableRowMatches.running (r g b bri : Byte) (steps : Half) (dur : Word32) :
    TableRowMatches.Statement (.running r g b bri steps dur) :=
  ⟨opcodeTable[8], by simp [opcodeTable], rfl,
    of_bytes (m := #v[0xFF, 0, 0, 0, 0, 0xFF, 0, 0, 0, 0, 0, 0, 0xFF, 0xFF, 0xFF, 0xFF])
      (p := patternBytes 0x15) (by decide) (by decide)
      (bytes_all fun k hk => by interval_cases k <;> simp [Sys2Proof.encode, formatA, patternBytes])⟩

end Sys2Proof.Laws
end

