-- ==== Sys2Proof/Laws/Run.lean ====
section
/-! SUPPORT. The block does not look at what is still to come, so inputs can be fed one at a time or in parts. -/

namespace Sys2Proof.Safety

open Sys2Proof.Machine

/-- The same state with `xs` still to come. -/
def withInputs (xs : List Input) (s : State) : State := { s with inputs := xs }

/-- The same outcome with `xs` still to come. -/
def outcomeWithInputs (xs : List Input) : Host.Outcome State Fault Refusal → Host.Outcome State Fault Refusal
  | .next s => .next (withInputs xs s)
  | .fault f => .fault f
  | .refused r => .refused r

theorem exec_withInputs (i : Instr) (xs : List Input) (s : State) :
    exec i (withInputs xs s) = outcomeWithInputs xs (exec i s) := by
  cases i with
  | encode | compensate => rfl
  | setcolor => rfl
  | hsl2rgb => unfold exec execHsl2rgb; dsimp only; split <;> rfl
  | pulse => unfold exec execPulse launch; dsimp only; split <;> (try split) <;> rfl
  | smooth => unfold exec execSmooth launch; dsimp only; split <;> (try split) <;> rfl
  | flash => unfold exec execFlash launch; dsimp only; split <;> rfl
  | rainbow => unfold exec execRainbow launch; dsimp only; split <;> (try split) <;> rfl
  | running => unfold exec execRunning launch; dsimp only; split <;> (try split) <;> rfl

theorem start_withInputs (xs : List Input) (s : State) :
    start (withInputs xs s) = outcomeWithInputs xs (start s) := by
  unfold start
  by_cases hi : s.seqState = .idle
  · have hx : (withInputs xs s).seqState = .idle := hi
    rw [if_pos hi, if_pos hx]
    show (match decode s.desc with
      | .ok i => exec i (withInputs xs { s with latch := s.desc })
      | .error c => .next (raiseFault c (withInputs xs { s with latch := s.desc }))) = _
    dsimp only
    cases decode s.desc with
    | ok i => exact exec_withInputs i xs _
    | error c => rfl
  · have hx : ¬ (withInputs xs s).seqState = .idle := hi
    rw [if_neg hi, if_neg hx]
    rfl

theorem writeByte_withInputs (a : Nat) (v : Byte) (xs : List Input) (s : State) :
    writeByte a v (withInputs xs s) = outcomeWithInputs xs (writeByte a v s) := by
  unfold writeByte writeCtrl
  show (if s.rst then _ else _) = _
  split
  · rfl
  · split
    · unfold writeDesc
      show Host.Outcome.next (if s.seqState = .idle then _ else _) = _
      split <;> rfl
    · split
      · split
        · exact start_withInputs xs s
        · rfl
      · rfl

theorem writeBytes_withInputs : ∀ (vs : List Byte) (a : Nat) (xs : List Input) (s : State),
    writeBytes a vs (withInputs xs s) = outcomeWithInputs xs (writeBytes a vs s)
  | [], _, _, _ => rfl
  | v :: vs, a, xs, s => by
    simp only [writeBytes, writeByte_withInputs]
    cases writeByte a v s with
    | next t => exact writeBytes_withInputs vs (a + 1) xs t
    | fault f => rfl
    | refused r => rfl

theorem advance_withInputs (xs : List Input) (s : State) :
    advance (withInputs xs s) = outcomeWithInputs xs (advance s) := by
  unfold advance
  show (if s.stepIndex + 1 = s.nsteps then _ else (match latchedColour (endWait s) with | some _ => _ | none => _)) = _
  split
  · rfl
  · cases latchedColour (endWait s) <;> rfl

/-- What the block does with an input does not depend on what is to come after it. -/
theorem deliver_withInputs (i : Input) (xs : List Input) (s : State) :
    deliver i (withInputs xs s) = outcomeWithInputs xs (deliver i s) := by
  cases i with
  | memWrite a vs =>
    simp only [deliver, hostWrite, writeBytes_withInputs]
    split <;> rfl
  | memRead a n =>
    simp only [deliver, hostRead]
    split <;> rfl
  | readByte a =>
    simp only [deliver, takeByte]
    show (if a ∈ s.reading then _ else _) = _
    split <;> rfl
  | ans r =>
    unfold deliver transportAnswer
    show (if s.seqState = .running then (match s.phase with
      | .att1 => _ | .att2 => _ | .none => _ | .wait => _) else _) = _
    dsimp only
    split
    · cases s.phase <;> cases r <;> rfl
    · rfl
  | tick =>
    unfold deliver waitOver
    show (if s.seqState = .running then (match s.phase with
      | .wait => _ | .none => _ | .att1 => _ | .att2 => _) else _) = _
    dsimp only
    split
    · cases s.phase <;> first | rfl | exact advance_withInputs xs s
    · rfl
  | rst b =>
    unfold deliver setReset
    show Host.Outcome.next (if b || s.rst then _ else _) = _
    dsimp only
    split <;> rfl

/-- Nothing to feed. -/
theorem feed_nil (s : State) : feed [] s = .next (withInputs [] s) := rfl

/-- Feeding does not depend on what came with the state. -/
theorem feed_withInputs (is xs : List Input) (s : State) : feed is (withInputs xs s) = feed is s := rfl

/-- Feeding one input and then the rest. -/
theorem feed_cons (i : Input) (is : List Input) (s : State) :
    feed (i :: is) s =
      (match deliver i s with
        | .next t => feed is t
        | .fault f => .fault f
        | .refused r => .refused r) := by
  have hs : core.step { s with inputs := i :: is } = outcomeWithInputs is (deliver i s) := deliver_withInputs i is s
  simp only [feed, List.length_cons, Host.Core.run, hs]
  cases deliver i s <;> rfl

/-- Feeding two parts, one after the other. -/
theorem feed_append : ∀ (is js : List Input) (s : State),
    feed (is ++ js) s =
      (match feed is s with
        | .next t => feed js t
        | .fault f => .fault f
        | .refused r => .refused r)
  | [], _, _ => rfl
  | i :: is, js, s => by
    rw [List.cons_append, feed_cons, feed_cons]
    cases deliver i s with
    | next t => exact feed_append is js t
    | fault f => rfl
    | refused r => rfl

end Sys2Proof.Safety
end

