-- ==== Sys2Proof/Tests/Slice0.lean ====
section
/-! SUPPORT. Tests, each on one small state, with expected values from spec/95_test_vectors.md or worked out by hand from the
rule that the comment names; and for every statement with hypotheses a witness that meets them. -/

namespace Sys2Proof.Tests

open Sys2Proof.Machine Sys2Proof.Safety

/-- The state that one step answers, if it answers one. -/
def after (s : State) : Option State :=
  match step s with
  | .next t => some t
  | .fault _ => none
  | .refused _ => none

/-- What `f` is after the inputs, if none of them stops the machine. -/
def fed {α : Type} (inputs : List Input) (s : State) (f : State → α) : Option α :=
  match feed inputs s with
  | .next t => some (f t)
  | .fault _ => none
  | .refused _ => none

/-- Idle after reset, with a descriptor prepared and `inputs` to come. -/
def idleWith (d : Descriptor) (inputs : List Input) : State := { State.reset with desc := d, inputs := inputs }

/-- Idle with the descriptor prepared and the host about to write 1 to CTRL. -/
def starting (d : Descriptor) : State := idleWith d [.memWrite 0x10 [1]]

/-- What `f` is after that START. -/
def started {α : Type} (f : State → α) (d : Descriptor) : Option α := (after (starting d)).map f

/-- SETCOLOR 255, 0, 0, 50 in flight: step 0 of 1, in phase `p`. -/
def inFlight (p : Phase) (inputs : List Input) : State :=
  { State.reset with
    desc := #v[0x10, 0xFF, 0, 0, 0x32, 0, 0, 0, 0, 0, 0, 0, 0, 0, 0, 0]
    latch := #v[0x10, 0xFF, 0, 0, 0x32, 0, 0, 0, 0, 0, 0, 0, 0, 0, 0, 0]
    nsteps := 1
    seqState := .running
    phase := p
    res := ⟨115, 0, 0⟩
    frame := #v[0x7E, 0x07, 0x05, 0x03, 0x73, 0, 0, 0x10, 0xEF]
    inputs := inputs }

/-- FLASH 255, 255, 255, 50, 2, 250 in flight: step 1 of 4, its wait running. -/
def flashWaiting (inputs : List Input) : State :=
  { State.reset with
    desc := #v[0x13, 0xFF, 0xFF, 0xFF, 0x32, 0, 0x02, 0, 0xFA, 0, 0, 0, 0, 0, 0, 0]
    latch := #v[0x13, 0xFF, 0xFF, 0xFF, 0x32, 0, 0x02, 0, 0xFA, 0, 0, 0, 0, 0, 0, 0]
    stepIndex := 1
    nsteps := 4
    delay := 250
    seqState := .running
    phase := .wait
    res := ⟨0, 0, 0⟩
    frame := #v[0x7E, 0x07, 0x05, 0x03, 0, 0, 0, 0x10, 0xEF]
    cc := ⟨115, 115, 115⟩
    inputs := inputs }

/-! ### Well-formedness (R97 check 3) -/

theorem test_ill_formed_steps_zero : Instr.wellFormed (.pulse 1 2 3 50 0 1000) = false := by decide

theorem test_ill_formed_denominator_zero : Instr.wellFormed (.hsl2rgb 0 0 1 1 1 2) = false := by decide

theorem test_ill_formed_numerator_above_denominator : Instr.wellFormed (.hsl2rgb 3 2 1 1 1 2) = false := by decide

theorem test_flash_count_zero_is_well_formed : Instr.wellFormed (.flash 1 2 3 50 0 1000) = true := by decide

/-! ### Decoding: each operation's word, `W[8k+7:8k]` byte `k`, written out from R91 to R96 -/

theorem test_decode_encode : decodeTableWord 128 0x0000_0000_0000_0000_0000_0000_1E14_0A01 = some (.encode 10 20 30) := by
  decide

theorem test_decode_compensate :
    decodeTableWord 128 0x0000_0000_0000_0000_0000_0032_0000_FF02 = some (.compensate 255 0 0 50) := by decide

theorem test_decode_hsl2rgb :
    decodeTableWord 128 0x0102_0101_0304_0203_0005_0001_0000_0003 = some (.hsl2rgb 1 5 0x0203 0x0304 0x0101 0x0102) := by
  decide

theorem test_decode_setcolor :
    decodeTableWord 128 0x0000_0000_0000_0000_0000_00C8_0302_0110 = some (.setcolor 1 2 3 200) := by decide

theorem test_decode_pulse :
    decodeTableWord 128 0x0000_0000_0403_0201_1234_0064_0302_0111 = some (.pulse 1 2 3 100 0x1234 0x04030201) := by decide

theorem test_decode_smooth :
    decodeTableWord 128 0x0000_0000_0000_0384_0003_6432_3264_C812 = some (.smooth 200 100 50 50 100 3 900) := by decide

theorem test_decode_flash :
    decodeTableWord 128 0x0000_0000_0000_00FA_0002_0032_FFFF_FF13 = some (.flash 255 255 255 50 2 250) := by decide

theorem test_decode_rainbow :
    decodeTableWord 128 0x0000_0000_0000_03E8_0003_0064_0000_0014 = some (.rainbow 100 3 1000) := by decide

theorem test_decode_running :
    decodeTableWord 128 0x0000_0000_0000_03E8_000A_0064_0302_0115 = some (.running 1 2 3 100 10 1000) := by decide

theorem test_decode_reserved_byte : decodeTableWord 128 0x0000_0000_0000_0000_0000_0005_1E14_0A01 = none := by decide

theorem test_decode_short_word : decodeTableWord 32 0x1E14_0A01 = some (.encode 10 20 30) := by decide

theorem test_encode_smooth :
    encode (.smooth 200 100 50 50 100 3 900) =
      #v[0x12, 0xC8, 0x64, 0x32, 0x32, 0x64, 0x03, 0, 0x84, 0x03, 0, 0, 0, 0, 0, 0] := by decide

/-! ### The operations, started from Idle -/

/-- 95_test_vectors.md E1. -/
theorem test_encode_frame :
    started State.frame #v[0x01, 10, 20, 30, 0, 0, 0, 0, 0, 0, 0, 0, 0, 0, 0, 0] =
      some #v[0x7E, 0x07, 0x05, 0x03, 10, 20, 30, 0x10, 0xEF] := by decide

/-- R172: a function leaves Idle. -/
theorem test_encode_stays_idle :
    started State.seqState #v[0x01, 10, 20, 30, 0, 0, 0, 0, 0, 0, 0, 0, 0, 0, 0, 0] = some .idle := by decide

/-- 95_test_vectors.md 2.2: the triple, and E3, the exact tie. -/
theorem test_compensate_triple :
    started State.res #v[0x02, 200, 100, 50, 67, 0, 0, 0, 0, 0, 0, 0, 0, 0, 0, 0] = some ⟨120, 60, 30⟩ := by decide +kernel

theorem test_compensate_tie :
    started State.res #v[0x02, 255, 0, 0, 50, 0, 0, 0, 0, 0, 0, 0, 0, 0, 0, 0] = some ⟨115, 0, 0⟩ := by decide +kernel

/-- 95_test_vectors.md 2.3: hue 3/4, the tie that binary64 misses; and 7/10, 3/5, 4/5, three different channels. -/
theorem test_hsl2rgb_tie :
    started State.res #v[0x03, 0, 0, 0, 3, 0, 4, 0, 1, 0, 1, 0, 1, 0, 2, 0] = some ⟨128, 0, 255⟩ := by decide

theorem test_hsl2rgb_general :
    started State.res #v[0x03, 0, 0, 0, 7, 0, 10, 0, 3, 0, 5, 0, 4, 0, 5, 0] = some ⟨186, 173, 235⟩ := by decide

/-- R184: SETCOLOR 255, 128, 1 at 100 (colour from 95_test_vectors.md 2.2). -/
theorem test_setcolor_frame :
    started State.frame #v[0x10, 255, 128, 1, 100, 0, 0, 0, 0, 0, 0, 0, 0, 0, 0, 0] =
      some #v[0x7E, 0x07, 0x05, 0x03, 228, 114, 1, 0x10, 0xEF] := by decide +kernel

theorem test_setcolor_runs_one_step :
    started (fun s => (s.seqState, s.phase, s.nsteps, s.delay)) #v[0x10, 255, 128, 1, 100, 0, 0, 0, 0, 0, 0, 0, 0, 0, 0, 0] =
      some (.running, .att1, 1, 0) := by decide

/-- R282's example: PULSE of duration 1000 in 4 steps, 9 frames each waiting 125 ms; the first one black. -/
theorem test_pulse_launch :
    started (fun s => (s.nsteps, s.delay, s.res)) #v[0x11, 255, 0, 0, 100, 0, 4, 0, 0xE8, 0x03, 0, 0, 0, 0, 0, 0] =
      some (9, 125, ⟨0, 0, 0⟩) := by decide

/-- R200 by hand: step 5 of 9 is `i = 3`, brightness 75 of 100, and `comp(255, 75) = 171` (95_test_vectors.md 2.2). -/
theorem test_pulse_colour : stepColour (.pulse 255 0 0 100 4 1000) Color.black 5 = some ⟨171, 0, 0⟩ := by decide +kernel

/-- R201 by hand: 900 ms in 3 steps is 300; the first colour is at the from brightness 50. -/
theorem test_smooth_launch :
    started (fun s => (s.nsteps, s.delay, s.res)) #v[0x12, 255, 128, 0, 50, 100, 3, 0, 0x84, 0x03, 0, 0, 0, 0, 0, 0] =
      some (4, 300, ⟨115, 57, 0⟩) := by decide +kernel

/-- R201 by hand: from 1 to 0 in 2 steps, the middle brightness 1/2 rounds up to 1. -/
theorem test_smooth_tie : smoothBrightness 1 0 2 1 = 1 := by decide

/-- R202 by hand: two flashes are 4 steps held 250 ms, CC white at 50. -/
theorem test_flash_launch :
    started (fun s => (s.nsteps, s.delay, s.cc)) #v[0x13, 255, 255, 255, 50, 0, 2, 0, 0xFA, 0, 0, 0, 0, 0, 0, 0] =
      some (4, 250, ⟨115, 115, 115⟩) := by decide +kernel

/-- R202: count 0 is over at once, without a fault. -/
theorem test_flash_count_zero :
    started (fun s => (s.seqState, s.fault, s.trace)) #v[0x13, 255, 255, 255, 50, 0, 0, 0, 0xFA, 0, 0, 0, 0, 0, 0, 0] =
      some (.complete, false, []) := by decide

/-- R203 by hand: 1000 ms in 3 hues is 333; the first hue is red at full brightness, 228. -/
theorem test_rainbow_launch :
    started (fun s => (s.nsteps, s.delay, s.res)) #v[0x14, 0, 0, 0, 100, 0, 3, 0, 0xE8, 0x03, 0, 0, 0, 0, 0, 0] =
      some (3, 333, ⟨228, 0, 0⟩) := by decide +kernel

/-- R203: hue 3/4 of the sector form is (128, 0, 255); at brightness 100 that is (114, 0, 228). -/
theorem test_rainbow_colour : stepColour (.rainbow 100 4 1000) Color.black 3 = some ⟨114, 0, 228⟩ := by decide +kernel

/-- R204: 22 steps whatever STEPS is, the first one red only. -/
theorem test_running_launch :
    started (fun s => (s.nsteps, s.delay, s.cc, s.res)) #v[0x15, 255, 128, 1, 100, 0, 10, 0, 0xE8, 0x03, 0, 0, 0, 0, 0, 0] =
      some (22, 100, ⟨228, 114, 1⟩, ⟨228, 0, 0⟩) := by decide +kernel

/-- R204: palette entry 5, R+B, is step 5 of the second cycle, step 12. -/
theorem test_running_palette : stepColour (.running 255 128 1 100 10 1000) ⟨228, 114, 1⟩ 12 = some ⟨228, 0, 1⟩ := by decide

/-! ### Command faults, micro-steps, host port -/

/-- R97: the checks in their order; a bad opcode before a bad byte, a bad byte before STEPS. -/
theorem test_fault_order :
    started State.cause #v[0x00, 1, 1, 1, 1, 1, 0, 0, 0, 0, 0, 0, 1, 0, 0, 0] = some (some .illegalOp) ∧
    started State.cause #v[0x11, 1, 1, 1, 1, 1, 0, 0, 0, 0, 0, 0, 1, 0, 0, 0] = some (some .reservedNonzero) ∧
    started State.cause #v[0x11, 1, 1, 1, 1, 0, 0, 0, 0, 0, 0, 0, 0, 0, 0, 0] = some (some .zeroSteps) ∧
    started State.cause #v[0x03, 0, 0, 0, 3, 0, 2, 0, 1, 0, 1, 0, 1, 0, 2, 0] = some (some .badFraction) := by decide

/-- R175: a second `failed` is a write error. -/
theorem test_write_error :
    (after (inFlight .att2 [.ans .failed])).map (fun s => (s.werr, s.werrcnt, s.lasterr, s.phase)) =
      some (true, 1, 0, .wait) := by decide

/-- R176, R202: after the black step 1 of FLASH comes CC. -/
theorem test_next_step :
    (after (flashWaiting [.tick])).map (fun s => (s.stepIndex, s.res, s.phase)) = some (2, ⟨115, 115, 115⟩, .att1) := by
  decide

/-- R61, R29: CTRL, STATUS, CAUSE and PHASE read while step 0 waits for its first answer: STATE 1, PHASE 1. -/
theorem test_read_status :
    fed (readInputs 0x10 4) (inFlight .att1 []) State.hostData = some [(0x10, 0), (0x11, 1), (0x12, 0), (0x13, 1)] := by decide

/-- R63, R277, U13: a read of RES that the next step of FLASH falls into mixes black and CC. -/
theorem test_torn_read :
    fed [.memRead 0x28 2, .readByte 0x29, .tick, .readByte 0x28] (flashWaiting []) State.hostData =
      some [(0x29, 0), (0x28, 115)] := by decide

/-- The kernel runs an instruction placed for the next step from reset. -/
theorem test_fetch_word :
    (after (State.reset.withFetchWord 128 0x0000_0000_0000_0000_0000_0000_1E14_0A01)).map State.frame =
      some #v[0x7E, 0x07, 0x05, 0x03, 10, 20, 30, 0x10, 0xEF] := by decide

/-! ### Witnesses: the hypotheses of each statement can be met -/

theorem witness_EncodeDecodeRoundTrip :
    decode #v[0x01, 10, 20, 30, 0, 0, 0, 0, 0, 0, 0, 0, 0, 0, 0, 0] = .ok (.encode 10 20 30) := by decide

/-- A descriptor of a row; one of no row with a known opcode; one of no row with an unknown opcode. -/
theorem witness_DecodeFollowsOpcodeTable :
    (∃ row ∈ opcodeTable, wordOfDescriptor #v[0x10, 1, 2, 3, 4, 0, 0, 0, 0, 0, 0, 0, 0, 0, 0, 0] &&& row.mask = row.pattern) ∧
    (∀ row ∈ opcodeTable, wordOfDescriptor #v[0x10, 1, 2, 3, 4, 1, 0, 0, 0, 0, 0, 0, 0, 0, 0, 0] &&& row.mask ≠ row.pattern) ∧
    (∀ row ∈ opcodeTable, wordOfDescriptor #v[0x16, 1, 2, 3, 4, 0, 0, 0, 0, 0, 0, 0, 0, 0, 0, 0] &&& row.mask ≠ row.pattern) := by
  decide

theorem witness_StartRunsDecodedInstruction :
    let s := starting #v[0x01, 10, 20, 30, 0, 0, 0, 0, 0, 0, 0, 0, 0, 0, 0, 0]
    s.inputs = [.memWrite 0x10 [1]] ∧ (1 : Byte).getLsbD 0 = true ∧ s.rst = false ∧ s.seqState = .idle ∧
      decode s.desc = .ok (.encode 10 20 30) := by decide

theorem witness_StartTakesDecodeFault :
    let s := starting #v[0x16, 0, 0, 0, 0, 0, 0, 0, 0, 0, 0, 0, 0, 0, 0, 0]
    s.inputs = [.memWrite 0x10 [1]] ∧ (1 : Byte).getLsbD 0 = true ∧ s.rst = false ∧ s.seqState = .idle ∧
      decode s.desc = .error .illegalOp := by decide

theorem witness_StartRefusedOutsideIdle :
    let s := inFlight .att1 [.memWrite 0x10 [1]]
    s.inputs = [.memWrite 0x10 [1]] ∧ (1 : Byte).getLsbD 0 = true ∧ s.rst = false ∧ s.seqState ≠ .idle := by decide

/-- The fractions 0/1, 65535/65535 and 1/2: both ends of the domain. -/
theorem witness_Hsl2rgbWritesResOnly :
    (1 : Half) ≠ 0 ∧ (65535 : Half) ≠ 0 ∧ (2 : Half) ≠ 0 ∧ (0 : Half).toNat ≤ (1 : Half).toNat ∧
      (65535 : Half).toNat ≤ (65535 : Half).toNat ∧ (1 : Half).toNat ≤ (2 : Half).toNat := by decide

/-- Each of the six ways out of the domain, at its boundary. -/
theorem witness_Hsl2rgbBadFractionFaults :
    (0 : Half) = 0 ∧ (1 : Half).toNat < (2 : Half).toNat ∧ (65534 : Half).toNat < (65535 : Half).toNat := by decide

theorem witness_EncodeFrameShape :
    encodeFrame ⟨1, 2, 3⟩ = encodeFrame ⟨1, 2, 3⟩ ∧
      exec (.encode 1 2 3) State.reset = .next { State.reset with frame := encodeFrame ⟨1, 2, 3⟩ } := ⟨rfl, rfl⟩

theorem witness_GainTableEntries : 0 ≤ 100 ∧ 100 ≤ 100 := by decide

theorem witness_CompensateIsDocumentFormula : (0 ≤ 100 ∧ 0 ≤ 0) ∧ (100 ≤ 100 ∧ ¬ 100 ≤ 0) := by decide

/-- The brightnesses 1, 99 and 100, a zero and a non-zero channel, and two channels in order. -/
theorem witness_CompensateProperties :
    (1 ≤ 100 ∧ 0 < 1) ∧ (100 ≤ 100 ∧ 0 < 100) ∧ (1 : Byte) ≠ 0 ∧ (1 ≤ 99 ∧ 99 < 100) ∧ (0 : Byte).toNat ≤ (255 : Byte).toNat := by
  decide

/-- A hue in each of the six sectors, their lower boundaries. -/
theorem witness_ConverterSectorForm :
    ∀ m < 6, m < 6 ∧ 6 * m / 6 = m := by decide

/-- 1/2 and 2/4, 1/1 and 3/3, 0/1 and 0/5. -/
theorem witness_ConverterIgnoresFractionForm :
    let h : Frac := ⟨1, 2⟩; let h' : Frac := ⟨2, 4⟩; let s : Frac := ⟨1, 1⟩; let s' : Frac := ⟨3, 3⟩
    let l : Frac := ⟨0, 1⟩; let l' : Frac := ⟨0, 5⟩
    0 < h.den ∧ 0 < s.den ∧ 0 < l.den ∧ 0 < h'.den ∧ 0 < s'.den ∧ 0 < l'.den ∧
      h.num * h'.den = h'.num * h.den ∧ s.num * s'.den = s'.num * s.den ∧ l.num * l'.den = l'.num * l.den := by decide

theorem witness_ConverterCornerCases : 0 < 3 ∧ 0 < 1 ∧ 0 < 2 ∧ 3 ≤ 3 ∧ 0 ≤ 1 ∧ 1 ≤ 2 := by decide

theorem witness_RoundHalfUpIsNearest : 0 < 10 := by decide

/-- The step counts 1 and 65535 of PULSE, SMOOTH, RAINBOW and RUNNING. -/
theorem witness_PulseLaunches : (1 : Half) ≠ 0 ∧ (65535 : Half) ≠ 0 := by decide

theorem witness_SmoothLaunches : (1 : Half) ≠ 0 ∧ (65535 : Half) ≠ 0 := by decide

theorem witness_RainbowLaunches : (1 : Half) ≠ 0 ∧ (65535 : Half) ≠ 0 := by decide

theorem witness_RunningLaunches : (1 : Half) ≠ 0 ∧ (65535 : Half) ≠ 0 := by decide

theorem witness_FlashLaunches : (65535 : Half) ≠ 0 ∧ (0 : Half) = 0 := by decide

/-- Each of the four operations. -/
theorem witness_ZeroStepsFaults (i : Instr)
    (h : i ∈ [.pulse 1 2 3 4 0 9, .smooth 1 2 3 4 5 0 9, .rainbow 4 0 9, .running 1 2 3 4 0 9]) :
    i = .pulse 1 2 3 4 0 9 ∨ i = .smooth 1 2 3 4 5 0 9 ∨ i = .rainbow 4 0 9 ∨ i = .running 1 2 3 4 0 9 := by
  simpa using h

/-- The first, the middle and the last step of a PULSE of one step. -/
theorem witness_PulseStepColours :
    (1 : Half) ≠ 0 ∧ 0 ≤ 2 * (1 : Half).toNat ∧ 1 ≤ 2 * (1 : Half).toNat ∧ 2 ≤ 2 * (1 : Half).toNat := by decide

theorem witness_PulseRampSymmetric :
    (1 : Half) ≠ 0 ∧ 2 ≤ 2 * (1 : Half).toNat ∧ 0 < (1 : Half).toNat ∧ (1 : Half).toNat ≤ 1 ∧ 1 < 2 * (1 : Half).toNat := by
  decide

theorem witness_SmoothStepColours : (1 : Half) ≠ 0 ∧ 0 ≤ (1 : Half).toNat ∧ 1 ≤ (1 : Half).toNat := by decide

/-- Rising, falling and equal brightnesses. -/
theorem witness_SmoothRampEndpoints :
    (1 : Half) ≠ 0 ∧ 0 < (1 : Half).toNat ∧ min (0 : Byte).toNat 100 ≤ min (255 : Byte).toNat 100 ∧
      min (7 : Byte).toNat 100 ≤ min (7 : Byte).toNat 100 := by decide

/-- The last flash of two, and the first index past them. -/
theorem witness_FlashStepColours : 1 < (2 : Half).toNat ∧ 2 * (2 : Half).toNat ≤ 4 := by decide

theorem witness_RainbowStepColours : 0 < (1 : Half).toNat ∧ 65534 < (65535 : Half).toNat := by decide

theorem witness_FirstAttemptAnswered :
    let s := inFlight .att1 [.ans .failed]
    s.inputs = [.ans .failed] ∧ s.seqState = .running ∧ s.phase = .att1 := by decide

theorem witness_SecondAttemptAnswered :
    let s := inFlight .att2 [.ans .ok]
    let t := inFlight .att2 [.ans .failed]
    (s.seqState = .running ∧ s.phase = .att2 ∧ s.inputs = [.ans .ok]) ∧
      (t.seqState = .running ∧ t.phase = .att2 ∧ t.inputs = [.ans .failed]) := by decide

/-- The last step, and one that is not the last. -/
theorem witness_WaitOverAdvances :
    let s := inFlight .wait [.tick]
    let t := flashWaiting [.tick]
    (s.inputs = [.tick] ∧ s.seqState = .running ∧ s.phase = .wait ∧ s.stepIndex + 1 = s.nsteps) ∧
    (t.inputs = [.tick] ∧ t.seqState = .running ∧ t.phase = .wait ∧ t.stepIndex + 1 ≠ t.nsteps ∧
      decode t.latch = .ok (.flash 255 255 255 50 2 250) ∧
      stepColour (.flash 255 255 255 50 2 250) t.cc (t.stepIndex + 1).toNat = some ⟨115, 115, 115⟩) := by decide

theorem witness_UninvitedInputsRefused :
    let s := idleWith State.reset.desc [.ans .ok]
    let t := inFlight .wait [.ans .ok]
    let u := idleWith State.reset.desc [.tick]
    let v := inFlight .att1 [.tick]
    let w := inFlight .att1 [.readByte 0x28]
    (s.inputs = [.ans .ok] ∧ s.seqState ≠ .running) ∧ (t.inputs = [.ans .ok] ∧ t.phase ≠ .att1 ∧ t.phase ≠ .att2) ∧
      (u.inputs = [.tick] ∧ u.seqState ≠ .running) ∧ (v.inputs = [.tick] ∧ v.phase ≠ .wait) ∧
      (w.inputs = [.readByte 0x28] ∧ 0x28 ∉ w.reading) := by decide

theorem witness_OutputsShowWhatIsAwaited :
    (inFlight .att1 []).inputs = [] ∧ phaseInv (inFlight .att1 []) ∧ phaseInv (inFlight .att2 []) ∧ phaseInv (inFlight .wait []) ∧
      phaseInv State.reset := by unfold phaseInv; decide

theorem witness_MicroStepsMakeBigStep : (inFlight .att1 []).seqState = .running ∧ (inFlight .att1 []).phase = .att1 := by
  decide

theorem witness_DescWriteOnlyInIdle :
    let s := idleWith State.reset.desc [.memWrite 15 [7]]
    let t := inFlight .wait [.memWrite 0 [7]]
    (s.inputs = [.memWrite 15 [7]] ∧ s.rst = false ∧ s.seqState = .idle ∧ 15 < 16) ∧
      (t.inputs = [.memWrite 0 [7]] ∧ t.rst = false ∧ t.seqState ≠ .idle ∧ 0 < 16) := by decide

/-- A write of 2 to CTRL, one of 1 to STATUS, one to the last address. -/
theorem witness_OtherWritesIgnored :
    (0x10 ≤ 0x10 ∧ 0x10 < 0x40 ∧ (0x10 = 0x10 → (2 : Byte).getLsbD 0 = false)) ∧
    (0x10 ≤ 0x11 ∧ 0x11 < 0x40 ∧ (0x11 = 0x10 → (1 : Byte).getLsbD 0 = false)) ∧
    (0x10 ≤ 0x3F ∧ 0x3F < 0x40 ∧ (0x3F = 0x10 → (1 : Byte).getLsbD 0 = false)) ∧
    (inFlight .att1 [.memWrite 0x10 [2]]).inputs = [.memWrite 0x10 [2]] := by decide

/-- One byte and fifteen, to the end of the space. -/
theorem witness_WideWriteIsByteWrites :
    let xs : List Byte := [1]
    let ys : List Byte := List.replicate 15 0
    xs ≠ [] ∧ ys ≠ [] ∧ xs.length + ys.length ≤ 16 ∧ 0x30 + xs.length + ys.length ≤ 0x40 := by decide

/-- One byte and sixteen up to the end of the space; STATUS, RES and FRAME as R274 reads them; and the first and the last byte of
a read. -/
theorem witness_HostReadsRegisterMap :
    ((1 ≤ 1 ∧ 1 ≤ 16 ∧ 0x11 + 1 ≤ 0x40) ∧ (1 ≤ 16 ∧ 16 ≤ 16 ∧ 0x30 + 16 ≤ 0x40) ∧ 0x28 + 3 ≤ 0x40 ∧ 0x2C + 9 ≤ 0x40) ∧
      (inFlight .att1 [.memRead 0x30 16]).inputs = [.memRead 0x30 16] ∧
      let s : State := { inFlight .att1 [.readByte 0x28] with reading := [0x28, 0x29, 0x2A] }
      s.inputs = [.readByte 0x28] ∧ 0x28 ∈ s.reading ∧ 0x2A ∈ s.reading := by decide

/-- No byte, seventeen bytes, and one byte past the end. -/
theorem witness_AccessOutsideSpaceRefused :
    (0 = 0 ∨ 16 < 0 ∨ 0x40 < 0 + 0) ∧ (17 = 0 ∨ 16 < 17 ∨ 0x40 < 0 + 17) ∧ (1 = 0 ∨ 16 < 1 ∨ 0x40 < 0x40 + 1) ∧
      (inFlight .att1 [.memRead 0x40 1]).inputs = [.memRead 0x40 1] ∧
      (inFlight .att1 [.memWrite 0x40 [9]]).inputs = [.memWrite 0x40 [9]] ∧ [(9 : Byte)].length = 1 := by decide

theorem witness_DescriptorReadsBack : State.reset.seqState = .idle ∧ State.reset.rst = false := by decide

/-- Reset in mid-run; its release; a write while it is asserted. -/
theorem witness_ResetFromAnyState :
    (inFlight .wait [.rst true]).inputs = [.rst true] ∧
    ({ State.reset with rst := true, inputs := [.rst false] } : State).rst = true ∧
    after { State.reset with rst := true, inputs := [.memWrite 0x10 [1]] } = some { State.reset with rst := true } := by decide

/-- The three moves of STATE, each by a step. -/
theorem witness_StateTransitions :
    started State.seqState #v[0x10, 255, 0, 0, 50, 0, 0, 0, 0, 0, 0, 0, 0, 0, 0, 0] = some .running ∧
    started State.seqState #v[0x16, 0, 0, 0, 0, 0, 0, 0, 0, 0, 0, 0, 0, 0, 0, 0] = some .complete ∧
    (after (inFlight .wait [.tick])).map State.seqState = some .complete ∧ noResetNext (inFlight .wait [.tick]) :=
  ⟨by decide, by decide, by decide, fun _ _ h => by cases h⟩

/-- A step that counts, and one that sets REJ. -/
theorem witness_FlagsStickAndStepCounts :
    (after (flashWaiting [.tick])).map State.stepIndex = some 2 ∧ noResetNext (flashWaiting [.tick]) ∧
    (after (inFlight .att1 [.memWrite 0x10 [1]])).map State.rej = some true ∧ noResetNext (inFlight .att1 [.memWrite 0x10 [1]]) :=
  ⟨by decide, fun _ _ h => (by cases h), by decide, fun _ _ h => (by cases h)⟩

theorem witness_CompleteIsTerminal :
    let s : State := { State.reset with seqState := .complete, inputs := [.memWrite 0x10 [1]] }
    noResetNext s ∧ s.seqState = .complete ∧ (after s).map State.rej = some true :=
  ⟨fun _ _ h => (by cases h), by decide, by decide⟩

theorem witness_HostCannotDisturbRun :
    let s := inFlight .att1 [.memWrite 0 [7, 8, 9]]
    s.seqState = .running ∧ s.rst = false ∧ s.inputs = [.memWrite 0 [7, 8, 9]] ∧ (after s).map State.rej = some true := by
  decide

/-- SETCOLOR in its first attempt meets the control invariant, and a step is possible. -/
theorem witness_StepKeepsControlInvariant :
    controlInv (inFlight .att1 [.ans .ok]) ∧ (after (inFlight .att1 [.ans .ok])).isSome = true :=
  ⟨⟨by unfold phaseInv; decide, by unfold faultInv; decide, fun h => (by cases h), fun _ => rfl, fun h => (by cases h)⟩,
    by decide⟩

theorem witness_StepKeepsErrorLog :
    logInv (inFlight .att2 [.ans .failed]) ∧ (after (inFlight .att2 [.ans .failed])).map State.werrcnt = some 1 :=
  ⟨by unfold logInv; decide, by decide⟩

theorem witness_StepKeepsDeviceFrames :
    deviceInv (inFlight .att1 [.ans .ok]) ∧ (after (inFlight .att1 [.ans .ok])).isSome = true := by
  refine ⟨⟨?_, fun _ => ⟨?_, by decide⟩, fun k f a r h => ?_⟩, by decide⟩
  · unfold deviceColour deviceChannel; decide
  · unfold deviceColour deviceChannel; decide
  · cases h

/-- SETCOLOR in its first attempt meets the whole invariant. -/
theorem witness_StepKeepsInvariant :
    inv (inFlight .att1 [.ans .ok]) ∧ (after (inFlight .att1 [.ans .ok])).isSome = true := by
  refine ⟨⟨witness_StepKeepsControlInvariant.1, ?_, by unfold logInv; decide, ?_, fun _ h => (by cases h)⟩, by decide⟩
  · refine fun _ _ => ⟨.setcolor 255 0 0 50, by decide, by decide, by decide, by decide, by decide, fun _ h => (by cases h),
      fun _ => ⟨by decide, by decide +kernel, by decide⟩, fun h => (by cases h)⟩
  · exact fun _ _ => ⟨.setcolor 255 0 0 50, [], [], by decide, rfl, rfl, rfl⟩

theorem witness_WriteErrorsBoundedBySteps : inv (inFlight .att1 [.ans .ok]) := witness_StepKeepsInvariant.1

theorem witness_NoFaultUnderInvariant : inv (inFlight .att1 [.ans .ok]) := witness_StepKeepsInvariant.1

/-- FLASH twice, one step of each outcome and one more. -/
theorem witness_SequenceRunsToComplete :
    let i : Instr := .flash 255 255 255 50 2 250
    let s := idleWith (encode i) []
    i.isSequence = true ∧ i.wellFormed = true ∧ s.seqState = .idle ∧ s.rst = false ∧ s.fault = false ∧
      s.desc = encode i ∧ [StepAnswers.accepted, .retried, .lost, .accepted].length = seqSteps i := by decide

/-- The same SETCOLOR step, accepted in one run and lost in the other. -/
theorem witness_AnswersDoNotChangeFrames :
    sameButAnswers (inFlight .att1 []) (inFlight .att1 []) ∧ (inFlight .att1 []).seqState = .running ∧
      (inFlight .att1 []).phase = .att1 ∧ [StepAnswers.accepted].length = [StepAnswers.lost].length ∧
      ∃ t, feed ([StepAnswers.accepted].flatMap stepInputs) (inFlight .att1 []) = .next t :=
  ⟨by unfold sameButAnswers; decide, by decide, by decide, rfl, ⟨_, rfl⟩⟩

end Sys2Proof.Tests
end

section
/-! PROOF. Round half up (R8): the integer form of the machine against the floor the spec writes over the rationals. -/

namespace Sys2Proof.Machine

/-- R8: the half is brought over the common denominator `2*d`, and integer division is then the floor of the quotient. -/
theorem rhu_eq_floor (n : ℕ) {d : ℕ} (hd : 0 < d) : (rhu n d : ℤ) = ⌊(n / d : ℚ) + 1 / 2⌋ := by
  have common_denominator : (n / d : ℚ) + 1 / 2 = ((2 * n + d : ℕ) : ℚ) / ((2 * d : ℕ) : ℚ) := by
    have : (d : ℚ) ≠ 0 := by positivity
    push_cast
    field_simp
  calc (rhu n d : ℤ)
      = ((2 * n + d : ℕ) : ℤ) / ((2 * d : ℕ) : ℤ) := Int.natCast_div _ _
    _ = ⌊((2 * n + d : ℕ) : ℚ) / ((2 * d : ℕ) : ℚ)⌋ := (Rat.floor_natCast_div_natCast _ _).symm
    _ = ⌊(n / d : ℚ) + 1 / 2⌋ := by rw [common_denominator]

/-- Settles O19: the general statement is `rhu_eq_floor`, and R8's five examples evaluate. -/
theorem roundHalfUpIsNearest : Obligations.RoundHalfUpIsNearest :=
  ⟨fun n _ hd => rhu_eq_floor n hd, by decide⟩

end Sys2Proof.Machine
end

section
/-! PROOF. Reset (R41): the registers hold the values `State.reset` writes out; the outputs and ports follow from STATE and
PHASE alone. -/

namespace Sys2Proof.Machine

/-- R29: `busy` is low in Idle. -/
theorem busy_eq_false_of_idle {s : State} (idle : s.seqState = .idle) : busy s = false := by
  simp [busy, idle]

/-- R29: `done` is low in Idle. -/
theorem done_eq_false_of_idle {s : State} (idle : s.seqState = .idle) : done s = false := by
  simp [done, idle]

/-- R41: with no attempt in progress nothing is outstanding at the Transport. -/
theorem transportPort_eq_none_of_phase_none {s : State} (noPhase : s.phase = .none) : transportPort s = none := by
  simp [transportPort, noPhase]

/-- R179: the delay port requests a wait only in PHASE WAIT, so none in PHASE NONE. -/
theorem delayPort_eq_none_of_phase_none {s : State} (noPhase : s.phase = .none) : delayPort s = none := by
  simp [delayPort, noPhase]

/-- Settles O46: reset is Idle with PHASE NONE, which fixes the outputs and ports; every register is read off `State.reset`. -/
theorem resetValues : Obligations.ResetValues := by
  have idle : State.reset.seqState = .idle := rfl
  have noPhase : State.reset.phase = .none := rfl
  exact ⟨rfl, rfl, rfl, rfl, idle, noPhase, rfl, rfl, rfl, rfl, rfl, rfl, rfl, rfl, rfl, rfl, rfl,
    busy_eq_false_of_idle idle, done_eq_false_of_idle idle,
    transportPort_eq_none_of_phase_none noPhase, delayPort_eq_none_of_phase_none noPhase⟩

end Sys2Proof.Machine
end

section
/-! PROOF. The frame encoder (R122): what a frame holds, that its colour can be read back, and the operations that write it. -/

namespace Sys2Proof.Machine

/-- R120: the nine bytes of a frame in order. -/
theorem toList_encodeFrame (c : Color) :
    (encodeFrame c).toList = [0x7E, 0x07, 0x05, 0x03, c.r, c.g, c.b, 0x10, 0xEF] := rfl

/-- The colour a frame carries: its bytes 4 to 6 (R122 (e)). -/
def frameColor (f : Frame) : Color := ⟨f[4], f[5], f[6]⟩

/-- R122 (d), (e): the channels are copied unchanged, so the colour is recovered from the frame. -/
theorem frameColor_leftInverse_encodeFrame : Function.LeftInverse frameColor encodeFrame := fun _ => rfl

theorem encodeFrame_injective : Function.Injective encodeFrame :=
  frameColor_leftInverse_encodeFrame.injective

/-- R121: ENCODE always goes on, and changes FRAME alone. -/
theorem exec_encode (r g b : Byte) (s : State) :
    exec (.encode r g b) s = .next { s with frame := encodeFrame ⟨r, g, b⟩ } := rfl

/-- R122 (f) for ENCODE: the frame it leaves does not depend on the state it ran in. -/
theorem frame_of_exec_encode {r g b : Byte} {s t : State} (ran : exec (.encode r g b) s = .next t) :
    t.frame = encodeFrame ⟨r, g, b⟩ := by
  rw [exec_encode] at ran
  cases ran
  rfl

/-- Settles O12: the shape is read off the frame's byte list, injectivity is the recovery of the colour, and a sequence step
and ENCODE both write the encoder's frame. -/
theorem encodeFrameShape : Obligations.EncodeFrameShape := by
  refine ⟨fun c => ?shape, fun _ _ sameFrame => encodeFrame_injective sameFrame, beginStep_frame,
    fun _ _ _ _ _ ran => frame_of_exec_encode ran⟩
  case shape =>
    have channels : frameColor (encodeFrame c) = c := frameColor_leftInverse_encodeFrame c
    rw [toList_encodeFrame]
    exact ⟨rfl, rfl, rfl, congrArg Color.r channels, congrArg Color.g channels, congrArg Color.b channels⟩

end Sys2Proof.Machine
end

section
/-! PROOF. The brightness compensator (R131 to R133): the gain table holds the document's factor a hundredfold, so the integer
scaler computes the document's rational formula. -/

namespace Sys2Proof.Machine

/-- R133: the rows of the ROM, as its rule. -/
theorem gainTable_eq_map_range :
    gainTable = (List.range 101).map fun b => BitVec.ofNat 15 (100 + 227 * b) := rfl

@[simp] theorem length_gainTable : gainTable.length = 101 := by
  rw [gainTable_eq_map_range, List.length_map, List.length_range]

theorem getElem?_gainTable {b : ℕ} (percent : b ≤ 100) :
    gainTable[b]? = some (BitVec.ofNat 15 (100 + 227 * b)) := by
  have inRange : b < 101 := by omega
  rw [gainTable_eq_map_range, List.getElem?_map, List.getElem?_range inRange, Option.map_some]

/-- The entries fit the ROM's 15 bits (R37): the largest is 22800. -/
theorem toNat_gainEntry {b : ℕ} (percent : b ≤ 100) : (BitVec.ofNat 15 (100 + 227 * b)).toNat = 100 + 227 * b := by
  rw [BitVec.toNat_ofNat]
  omega

theorem gain_eq {b : ℕ} (percent : b ≤ 100) : gain b = 100 + 227 * b := by
  rw [gain, Nat.min_eq_left percent, List.getD_eq_getElem?_getD, getElem?_gainTable percent, Option.getD_some,
    toNat_gainEntry percent]

/-- Settles O13: the length and the entries are read off `gainTable_eq_map_range`, and the look-up returns the entry. -/
theorem gainTableEntries : Obligations.GainTableEntries := by
  refine ⟨length_gainTable, fun b percent => ⟨?entry, gain_eq percent⟩⟩
  case entry => rw [getElem?_gainTable percent, Option.map_some, toNat_gainEntry percent]

/-- R8: the spec's rounding of a quotient of naturals is the machine's. -/
theorem roundHalfUp_natCast_div (n : ℕ) {d : ℕ} (hd : 0 < d) : Reference.roundHalfUp (n / d : ℚ) = rhu n d := by
  have floor_eq : ((n / d : ℚ) + 1 / 2).floor = (rhu n d : ℤ) := (rhu_eq_floor n hd).symm
  rw [Reference.roundHalfUp, floor_eq, Int.toNat_natCast]

/-- R132: the scaler rounds `v*GAIN[b]/25500` half up; its constants are those of `rhu` halved. -/
theorem scale_eq_max_rhu (v b : ℕ) : scale v b = max 1 (rhu (v * gain b) 25500) := by
  unfold scale rhu
  omega

/-- R131 step 3, R133: the document's unrounded channel is `v*GAIN[b]/25500`. -/
theorem documentProduct_eq_div (v : ℕ) {b : ℕ} (percent : b ≤ 100) :
    (v / 255 : ℚ) * (1 + (b / 100 : ℚ) * 227) = (v * gain b : ℕ) / (25500 : ℕ) := by
  rw [gain_eq percent]
  push_cast
  ring

theorem lane_eq_scale {v b : ℕ} (lit : v ≠ 0) (percent : b ≤ 100) : Reference.lane v b = scale v b := by
  rw [Reference.lane, if_neg lit, documentProduct_eq_div v percent, roundHalfUp_natCast_div _ (by decide),
    scale_eq_max_rhu]

/-- R131 step 3 for one lane, off or lit. -/
theorem channel_eq_lane (v : Byte) {b : ℕ} (percent : b ≤ 100) :
    channel v b = BitVec.ofNat 8 (Reference.lane v.toNat b) := by
  by_cases off : v = 0
  · subst off
    rfl
  · have lit : v.toNat ≠ 0 := fun zero => off (BitVec.eq_of_toNat_eq zero)
    rw [channel, if_neg off, lane_eq_scale lit percent]

/-- Settles O14: brightness 0 is the override to black on both sides, and at any other each lane is `channel_eq_lane`. -/
theorem compensateIsDocumentFormula : Obligations.CompensateIsDocumentFormula := by
  intro c b percent
  by_cases dark : b = 0
  · subst dark
    rfl
  · have bright : ¬ b ≤ 0 := by omega
    rw [compensate, if_neg dark, if_neg bright, channel_eq_lane c.r percent, channel_eq_lane c.g percent,
      channel_eq_lane c.b percent]

end Sys2Proof.Machine
end

section
/-! PROOF. The converter (R150 to R154): the exact fractions of the machine carry the rationals the spec writes, so its
colours are those of the rational formulas; at saturation 1 and lightness 1/2 these are the six-row sector table. -/

namespace Sys2Proof.Machine

/-! ### Fractions and the rationals they stand for -/

/-- The fraction `x` stands for the rational `v`: it may be divided by (R10), and its value is `v`. -/
structure Denotes (x : Frac) (v : ℚ) : Prop where
  den_pos : 0 < x.den
  value_eq : Reference.value x = v

namespace Denotes

variable {x y z w : Frac} {u v a b : ℚ}

theorem den_ne_zero (hx : Denotes x u) : (x.den : ℚ) ≠ 0 := Nat.cast_ne_zero.mpr hx.den_pos.ne'

/-- The fraction of two counters (R93, R203). -/
theorem natCast_div (n : ℕ) {d : ℕ} (pos : 0 < d) : Denotes ⟨n, d⟩ (n / d) :=
  ⟨pos, by simp [Reference.value]⟩

theorem ofNat (n : ℕ) (cast : (n : ℚ) = u) : Denotes (Frac.ofNat n) u :=
  ⟨Nat.one_pos, by simp [Reference.value, Frac.ofNat, cast]⟩

theorem add (hx : Denotes x u) (hy : Denotes y v) : Denotes (x.add y) (u + v) where
  den_pos := Nat.mul_pos hx.den_pos hy.den_pos
  value_eq := by
    rw [← hx.value_eq, ← hy.value_eq]
    unfold Reference.value
    rw [div_add_div _ _ hx.den_ne_zero hy.den_ne_zero]
    simp [Frac.add, mul_comm]

theorem sub (hx : Denotes x u) (hy : Denotes y v) : Denotes (x.sub y) (u - v) where
  den_pos := Nat.mul_pos hx.den_pos hy.den_pos
  value_eq := by
    rw [← hx.value_eq, ← hy.value_eq]
    unfold Reference.value
    rw [div_sub_div _ _ hx.den_ne_zero hy.den_ne_zero]
    simp [Frac.sub, mul_comm]

theorem mul (hx : Denotes x u) (hy : Denotes y v) : Denotes (x.mul y) (u * v) where
  den_pos := Nat.mul_pos hx.den_pos hy.den_pos
  value_eq := by
    rw [← hx.value_eq, ← hy.value_eq]
    unfold Reference.value
    rw [div_mul_div_comm]
    simp [Frac.mul]

/-- Cross multiplication compares the values. -/
theorem lt_iff (hx : Denotes x u) (hy : Denotes y v) : x.lt y = true ↔ u < v := by
  have xden : (0 : ℚ) < x.den := Nat.cast_pos.mpr hx.den_pos
  have yden : (0 : ℚ) < y.den := Nat.cast_pos.mpr hy.den_pos
  rw [← hx.value_eq, ← hy.value_eq, Reference.value, Reference.value, div_lt_div_iff₀ xden yden, Frac.lt,
    decide_eq_true_iff]
  exact_mod_cast Iff.rfl

/-- A branch of the machine on `x < y` follows the branch of the formula on the values. -/
theorem ite_lt (hx : Denotes x u) (hy : Denotes y v) (hz : Denotes z a) (hw : Denotes w b) :
    Denotes (if x.lt y then z else w) (if u < v then a else b) := by
  by_cases less : u < v
  · rwa [if_pos less, if_pos ((hx.lt_iff hy).mpr less)]
  · rwa [if_neg less, if_neg (mt (hx.lt_iff hy).mp less)]

theorem num_eq_zero_iff (hx : Denotes x u) : x.num = 0 ↔ u = 0 := by
  rw [← hx.value_eq, Reference.value, div_eq_zero_iff, or_iff_left hx.den_ne_zero, Int.cast_eq_zero]

/-- R8: the machine rounds a fraction as the spec rounds its value. Below zero, where R8 says nothing, both give 0. -/
theorem rhu_eq (hx : Denotes x u) : x.rhu = Reference.roundHalfUp u := by
  obtain ⟨num, den⟩ := x
  obtain ⟨pos, rfl⟩ := hx
  rcases le_total 0 num with nonneg | nonpos
  · lift num to ℕ using nonneg
    exact (roundHalfUp_natCast_div num pos).symm
  · have value_nonpos : Reference.value ⟨num, den⟩ ≤ 0 :=
      div_nonpos_of_nonpos_of_nonneg (Int.cast_nonpos.mpr nonpos) (Nat.cast_nonneg den)
    have floor_nonpos : ⌊Reference.value ⟨num, den⟩ + 1 / 2⌋ ≤ 0 :=
      Int.lt_add_one_iff.mp (Int.floor_lt.mpr (by push_cast; linarith))
    have rhu_zero : rhu 0 den = 0 := Nat.div_eq_of_lt (by have : 0 < den := pos; omega)
    rw [Frac.rhu, Int.toNat_of_nonpos nonpos, rhu_zero]
    exact (Int.toNat_of_nonpos floor_nonpos).symm

/-- R153. -/
theorem channelByte_eq (hx : Denotes x u) : channelByte x = BitVec.ofNat 8 (Reference.roundHalfUp (u * 255)) := by
  rw [channelByte, (hx.mul (ofNat 255 Nat.cast_ofNat)).rhu_eq]

end Denotes

/-! ### The conversion (R151, R152) -/

/-- The two conditional moves at the head of `hue2rgb` (R152). -/
def wrapTurn (t : Frac) : Frac :=
  let t := if t.lt (Frac.ofNat 0) then t.add (Frac.ofNat 1) else t
  if t.lt (Frac.ofNat 1) then t else t.sub (Frac.ofNat 1)

theorem hue2rgb_eq_segments (p q t : Frac) :
    hue2rgb p q t =
      if (wrapTurn t).lt ⟨1, 6⟩ then p.add (((q.sub p).mul (Frac.ofNat 6)).mul (wrapTurn t))
      else if (wrapTurn t).lt ⟨1, 2⟩ then q
      else if (wrapTurn t).lt ⟨2, 3⟩ then p.add (((q.sub p).mul (Frac.sub ⟨2, 3⟩ (wrapTurn t))).mul (Frac.ofNat 6))
      else p := rfl

namespace Denotes

variable {p q t s l : Frac} {p' q' t' s' l' : ℚ}

theorem third : Denotes ⟨1, 3⟩ (1 / 3) := by exact_mod_cast natCast_div 1 (d := 3) (by decide)
theorem sixth : Denotes ⟨1, 6⟩ (1 / 6) := by exact_mod_cast natCast_div 1 (d := 6) (by decide)
theorem half : Denotes ⟨1, 2⟩ (1 / 2) := by exact_mod_cast natCast_div 1 (d := 2) (by decide)
theorem twoThirds : Denotes ⟨2, 3⟩ (2 / 3) := by exact_mod_cast natCast_div 2 (d := 3) (by decide)

/-- R152: the machine branches on `t < 1` where the formula branches on `1 ≤ t`. -/
theorem wrapTurn (ht : Denotes t t') : Denotes (wrapTurn t) (Reference.wrapHue t') := by
  have one : Denotes (Frac.ofNat 1) 1 := ofNat 1 Nat.cast_one
  have below := ht.ite_lt (ofNat 0 Nat.cast_zero) (ht.add one) ht
  simpa only [Machine.wrapTurn, Reference.wrapHue, ← not_lt, ite_not] using below.ite_lt one below (below.sub one)

theorem hue2rgb (hp : Denotes p p') (hq : Denotes q q') (ht : Denotes t t') :
    Denotes (hue2rgb p q t) (Reference.segment p' q' t') := by
  have six : Denotes (Frac.ofNat 6) 6 := ofNat 6 Nat.cast_ofNat
  have rising := hp.add (((hq.sub hp).mul six).mul ht.wrapTurn)
  have falling := hp.add (((hq.sub hp).mul (twoThirds.sub ht.wrapTurn)).mul six)
  rw [hue2rgb_eq_segments, Reference.segment]
  exact ht.wrapTurn.ite_lt sixth rising (ht.wrapTurn.ite_lt half hq (ht.wrapTurn.ite_lt twoThirds falling hp))

/-- R151: `q`. -/
theorem upper (hs : Denotes s s') (hl : Denotes l l') :
    Denotes (if l.lt ⟨1, 2⟩ then l.mul ((Frac.ofNat 1).add s) else (l.add s).sub (l.mul s)) (Reference.upper s' l') :=
  hl.ite_lt half (hl.mul ((ofNat 1 Nat.cast_one).add hs)) ((hl.add hs).sub (hl.mul hs))

end Denotes

/-- One output channel of the document's conversion: R151 at a hue offset, then R153. -/
def hslByte (h s l offset : ℚ) : Byte :=
  BitVec.ofNat 8 (Reference.roundHalfUp (Reference.hslChannel h s l offset * 255))

/-- R151 to R153: the converter on fractions is the document's conversion of the numbers they stand for. -/
theorem hslToRgb_eq_hslByte {h s l : Frac} {h' s' l' : ℚ} (hh : Denotes h h') (hs : Denotes s s') (hl : Denotes l l') :
    hslToRgb h s l = ⟨hslByte h' s' l' (1 / 3), hslByte h' s' l' 0, hslByte h' s' l' (-1 / 3)⟩ := by
  by_cases grey : s' = 0
  · simp only [hslToRgb, if_pos (hs.num_eq_zero_iff.mpr grey), hslByte, Reference.hslChannel, if_pos grey,
      hl.channelByte_eq]
  · have hq := hs.upper hl
    have hp := ((Denotes.ofNat 2 Nat.cast_ofNat).mul hl).sub hq
    have red := (hp.hue2rgb hq (hh.add Denotes.third)).channelByte_eq
    have green := (hp.hue2rgb hq hh).channelByte_eq
    have blue := (hp.hue2rgb hq (hh.sub Denotes.third)).channelByte_eq
    have back : h' - 1 / 3 = h' + -1 / 3 := by ring
    simp only [hslToRgb, if_neg (mt hs.num_eq_zero_iff.mp grey), hslByte, Reference.hslChannel, if_neg grey,
      red, green, blue, back, add_zero]

/-! ### The sector form (R154) -/

/-- R152: the wrap takes off the whole turns, from one turn below `[0,1)` to one turn above it. -/
theorem wrapHue_eq_fract {t : ℚ} (low : -1 ≤ t) (high : t < 2) : Reference.wrapHue t = Int.fract t := by
  symm
  rw [Reference.wrapHue, Int.fract_eq_iff]
  split_ifs
  · linarith
  · exact ⟨by linarith, by linarith, -1, by push_cast; ring⟩
  · exact ⟨by linarith, by linarith, 1, by push_cast; ring⟩
  · exact ⟨by linarith, by linarith, 0, by push_cast; ring⟩

/-- One turn of a channel at saturation 1 and lightness 1/2, by sixths: a rising ramp, two sixths at 1, a falling ramp, two
sixths at 0 (R152). `f` is how far into the sixth `k` the hue is. -/
def sextant (k : ℤ) (f : ℚ) : ℚ :=
  if k < 1 then f else if k < 3 then 1 else if k < 4 then 1 - f else 0

section Sixths

variable {k : ℤ} {f : ℚ} (f_nonneg : 0 ≤ f) (f_lt_one : f < 1)

include f_nonneg f_lt_one

/-- R152: the sixth is counted modulo one turn. -/
theorem fract_sixths (k : ℤ) : Int.fract ((k + f) / 6) = ((k % 6 : ℤ) + f) / 6 := by
  have low : (0 : ℚ) ≤ (k % 6 : ℤ) := Int.cast_nonneg (Int.emod_nonneg k (by decide))
  have high : ((k % 6 : ℤ) : ℚ) ≤ 5 := by exact_mod_cast Int.le_of_lt_add_one (Int.emod_lt_of_pos k (by decide))
  have parts : (k : ℚ) = 6 * (k / 6 : ℤ) + (k % 6 : ℤ) := by exact_mod_cast (Int.mul_ediv_add_emod k 6).symm
  rw [Int.fract_eq_iff]
  exact ⟨by linarith, by linarith, k / 6, by linarith⟩

/-- A bound that is a whole number of sixths is met or not by the sixth alone. -/
theorem sixths_lt_iff (k m : ℤ) : ((k : ℚ) + f) / 6 < m / 6 ↔ k < m := by
  rw [div_lt_div_iff_of_pos_right (by norm_num)]
  constructor
  · intro less
    have : (k : ℚ) < m := by linarith
    exact_mod_cast this
  · intro less
    have : (k : ℚ) + 1 ≤ m := by exact_mod_cast less
    linarith

/-- R152 at `p = 0` and `q = 1`. -/
theorem segment_eq_sextant (low : -6 ≤ k) (high : k < 12) :
    Reference.segment 0 1 ((k + f) / 6) = sextant (k % 6) f := by
  have low' : (-6 : ℚ) ≤ k := by exact_mod_cast low
  have high' : (k : ℚ) ≤ 11 := by exact_mod_cast Int.le_of_lt_add_one high
  have wrapped : Reference.wrapHue ((k + f) / 6) = ((k % 6 : ℤ) + f) / 6 := by
    rw [wrapHue_eq_fract (by linarith) (by linarith), fract_sixths f_nonneg f_lt_one]
  have bound := sixths_lt_iff f_nonneg f_lt_one (k % 6)
  have sixth : (1 / 6 : ℚ) = (1 : ℤ) / 6 := by norm_num
  have half : (1 / 2 : ℚ) = (3 : ℤ) / 6 := by norm_num
  have twoThirds : (2 / 3 : ℚ) = (4 : ℤ) / 6 := by norm_num
  rw [Reference.segment, wrapped, sextant]
  simp only [sixth, half, twoThirds, bound]
  split_ifs
  · have first : k % 6 = 0 := by omega
    rw [first]
    push_cast
    ring
  · rfl
  · have fourth : k % 6 = 3 := by omega
    rw [fourth]
    push_cast
    ring
  · rfl

/-- R154: at saturation 1 and lightness 1/2, `q` is 1 and `p` is 0. -/
theorem hslChannel_eq_sextant {sec : ℕ} (sec_lt : sec < 6) {d : ℤ} (low : -2 ≤ d) (high : d ≤ 2) :
    Reference.hslChannel ((sec + f) / 6) 1 (1 / 2) (d / 6) = sextant ((sec + d) % 6) f := by
  have q : Reference.upper 1 (1 / 2) = 1 := by norm_num [Reference.upper]
  have p : (2 * (1 / 2) - 1 : ℚ) = 0 := by norm_num
  have hue : (sec + f) / 6 + (d / 6 : ℚ) = ((sec + d : ℤ) + f) / 6 := by push_cast; ring
  rw [Reference.hslChannel, if_neg one_ne_zero, q, p, hue, segment_eq_sextant f_nonneg f_lt_one (by omega) (by omega)]

end Sixths

/-- The byte of a channel in the sixth `k`, `rem/n` of the way through it (R153). -/
def sextantByte (k : ℤ) (rem n : ℕ) : Byte :=
  BitVec.ofNat 8 (Reference.roundHalfUp (sextant k (rem / n) * 255))

section Bytes

variable {n rem : ℕ}

/-- R154: the form in which the table writes the rounding of `255*m/n`. -/
theorem roundHalfUp_ramp (m : ℕ) (pos : 0 < n) :
    Reference.roundHalfUp (m / n * 255) = (510 * m + n) / (2 * n) := by
  have numerator : (m / n * 255 : ℚ) = (255 * m : ℕ) / n := by push_cast; ring
  have doubled : 2 * (255 * m) = 510 * m := by omega
  rw [numerator, roundHalfUp_natCast_div _ pos, rhu, doubled]

/-- R154: `up`. -/
theorem sextantByte_rising (pos : 0 < n) : sextantByte 0 rem n = BitVec.ofNat 8 ((510 * rem + n) / (2 * n)) := by
  rw [sextantByte, sextant, if_pos (by decide), roundHalfUp_ramp rem pos]

theorem sextantByte_high {k : ℤ} (low : 1 ≤ k) (high : k < 3) : sextantByte k rem n = 255 := by
  have full : 255 = Reference.roundHalfUp 255 := (Denotes.ofNat 255 Nat.cast_ofNat).rhu_eq
  rw [sextantByte, sextant, if_neg low.not_gt, if_pos high, one_mul, ← full]
  rfl

/-- R154: `dn`, computed from its own value and not as the complement of `up` (R153). -/
theorem sextantByte_falling (less : rem < n) :
    sextantByte 3 rem n = BitVec.ofNat 8 ((510 * (n - rem) + n) / (2 * n)) := by
  have pos : 0 < n := by omega
  have falling : (1 - rem / n : ℚ) = (n - rem : ℕ) / n := by
    rw [Nat.cast_sub less.le, sub_div, div_self (Nat.cast_ne_zero.mpr pos.ne')]
  rw [sextantByte, sextant, if_neg (by decide), if_neg (by decide), if_pos (by decide), falling,
    roundHalfUp_ramp _ pos]

theorem sextantByte_low {k : ℤ} (low : 4 ≤ k) : sextantByte k rem n = 0 := by
  have dark : 0 = Reference.roundHalfUp 0 := (Denotes.ofNat 0 Nat.cast_zero).rhu_eq
  rw [sextantByte, sextant, if_neg (by omega), if_neg (by omega), if_neg (by omega), zero_mul, ← dark]
  rfl

end Bytes

/-- R154: a hue below a full turn is in one of the six sectors. -/
theorem sector_lt_six {i n : ℕ} (less : i < n) : 6 * i / n < 6 := Nat.div_lt_of_lt_mul (by omega)

/-- R154: the hue `i/n` is `rem/n` of the way through the sixth `sec`; red is two sixths ahead of green, and blue two
behind. -/
theorem hslToRgb_eq_sextantByte {i n : ℕ} (less : i < n) :
    hslToRgb ⟨i, n⟩ ⟨1, 1⟩ ⟨1, 2⟩ =
      ⟨sextantByte (((6 * i / n : ℕ) + 2) % 6) (6 * i % n) n, sextantByte (((6 * i / n : ℕ) + 0) % 6) (6 * i % n) n,
        sextantByte (((6 * i / n : ℕ) + -2) % 6) (6 * i % n) n⟩ := by
  have pos : 0 < n := by omega
  have sec_lt := sector_lt_six less
  have n_pos : (0 : ℚ) < n := Nat.cast_pos.mpr pos
  have f_nonneg : (0 : ℚ) ≤ (6 * i % n : ℕ) / n := by positivity
  have f_lt_one : ((6 * i % n : ℕ) / n : ℚ) < 1 := (div_lt_one n_pos).mpr (Nat.cast_lt.mpr (Nat.mod_lt _ pos))
  have hue : (i / n : ℚ) = ((6 * i / n : ℕ) + (6 * i % n : ℕ) / n) / 6 := by
    have parts : (6 * i : ℚ) = n * (6 * i / n : ℕ) + (6 * i % n : ℕ) := by
      exact_mod_cast (Nat.div_add_mod (6 * i) n).symm
    field_simp
    linarith
  have channel (d : ℤ) (low : -2 ≤ d) (high : d ≤ 2) :
      hslByte (i / n) 1 (1 / 2) (d / 6) = sextantByte (((6 * i / n : ℕ) + d) % 6) (6 * i % n) n := by
    rw [hslByte, hue, hslChannel_eq_sextant f_nonneg f_lt_one sec_lt low high, sextantByte]
  have red : (1 / 3 : ℚ) = (2 : ℤ) / 6 := by norm_num
  have green : (0 : ℚ) = (0 : ℤ) / 6 := by norm_num
  have blue : (-1 / 3 : ℚ) = (-2 : ℤ) / 6 := by norm_num
  have one : Denotes ⟨1, 1⟩ 1 := Denotes.ofNat 1 Nat.cast_one
  rw [hslToRgb_eq_hslByte (Denotes.natCast_div i pos) one Denotes.half, red, channel 2 (by decide) (by decide),
    blue, channel (-2) (by decide) (by decide), green, channel 0 (by decide) (by decide)]

/-- Settles O16: `hslToRgb_eq_sextantByte` reduces each of the six sectors to the sixths of its three channels, read off by
the lemmas about `sextantByte`. -/
theorem converterSectorForm : Obligations.ConverterSectorForm := by
  intro i n less rem up dn
  have pos : 0 < n := by omega
  have sec_lt := sector_lt_six less
  have rising : sextantByte 0 rem n = up := sextantByte_rising pos
  have high₁ : sextantByte 1 rem n = 255 := sextantByte_high (by decide) (by decide)
  have high₂ : sextantByte 2 rem n = 255 := sextantByte_high (by decide) (by decide)
  have falling : sextantByte 3 rem n = dn := sextantByte_falling (Nat.mod_lt _ pos)
  have low₄ : sextantByte 4 rem n = 0 := sextantByte_low (by decide)
  have low₅ : sextantByte 5 rem n = 0 := sextantByte_low (by decide)
  rw [hslToRgb_eq_sextantByte less]
  generalize 6 * i / n = sec at sec_lt ⊢
  interval_cases sec
  · exact (Color.mk.injEq ..).mpr ⟨high₂, rising, low₄⟩
  · exact (Color.mk.injEq ..).mpr ⟨falling, high₁, low₅⟩
  · exact (Color.mk.injEq ..).mpr ⟨low₄, high₂, rising⟩
  · exact (Color.mk.injEq ..).mpr ⟨low₅, falling, high₁⟩
  · exact (Color.mk.injEq ..).mpr ⟨rising, low₄, high₂⟩
  · exact (Color.mk.injEq ..).mpr ⟨high₁, low₅, falling⟩

end Sys2Proof.Machine
end

section
/-! PROOF. The micro-steps (R174 to R176): the step that consumes each input, in the phase that awaits it, with its exact
next state. -/

namespace Sys2Proof.Machine

/-- A step hands the next input to the block, which sees the ones after it as still to come. -/
theorem step_eq_deliver {s : State} {i : Input} {rest : List Input} (pending : s.inputs = i :: rest) :
    step s = deliver i { s with inputs := rest } := by
  rw [step, pending]

section
variable {s : State} (running : s.seqState = .running)
include running

/-- R174: the first attempt takes the answer. -/
theorem deliver_ans_of_att1 (phase : s.phase = .att1) (r : Answer) : deliver (.ans r) s = .next (answerFirst r s) := by
  rw [deliver, transportAnswer, if_pos running, phase]

/-- R175: the second attempt takes the answer. -/
theorem deliver_ans_of_att2 (phase : s.phase = .att2) (r : Answer) : deliver (.ans r) s = .next (answerSecond r s) := by
  rw [deliver, transportAnswer, if_pos running, phase]

/-- R176: the running wait takes the report of its end. -/
theorem deliver_tick_of_wait (phase : s.phase = .wait) : deliver .tick s = advance s := by
  rw [deliver, waitOver, if_pos running, phase]

end

/-- R174: the first answer's event, and PHASE; nothing else. -/
theorem answerFirst_eq (r : Answer) (s : State) :
    answerFirst r s = { s with
      trace := s.trace ++ [.txAttempt s.stepIndex s.frame true r], phase := if r = .ok then .wait else .att2 } := by
  cases r with
  | ok => rfl
  | failed => rfl

/-- R175: an `ok` to the second attempt. -/
theorem answerSecond_ok (s : State) :
    answerSecond .ok s = { s with
      trace := s.trace ++ [.txAttempt s.stepIndex s.frame false .ok], phase := .wait } := rfl

/-- R175, R246: a second failure; the attempt's event and then the write error's. -/
theorem answerSecond_failed (s : State) :
    answerSecond .failed s = { s with
      phase := .wait, werr := true, werrcnt := s.werrcnt + 1, lasterr := s.stepIndex,
      trace := s.trace ++ [.txAttempt s.stepIndex s.frame false .failed, .writeError s.stepIndex] } := by
  simp [answerSecond, logWriteError, emit]

/-- R281: outside Running no attempt is outstanding. -/
theorem deliver_ans_of_not_running {s : State} (notRunning : s.seqState ≠ .running) (r : Answer) :
    deliver (.ans r) s = .refused .noAttemptOutstanding := by
  rw [deliver, transportAnswer, if_neg notRunning]

/-- R176: after the last step the run is over. -/
theorem advance_of_last {s : State} (last : s.stepIndex + 1 = s.nsteps) :
    advance s = .next { endWait s with seqState := .complete, phase := .none } := by
  rw [advance, if_pos last]

/-- R176: before the last step the next one begins, with the colour that the latch gives it. -/
theorem advance_of_colour {s : State} {c : Color} (more : s.stepIndex + 1 ≠ s.nsteps)
    (colour : latchedColour (endWait s) = some c) : advance s = .next (beginStep c (endWait s)) := by
  rw [advance, if_neg more, colour]

/-- R173: the colour of the step that STEP names, once the latch is decoded. -/
theorem latchedColour_of_decode {s : State} {i : Instr} (decoded : decode s.latch = .ok i) :
    latchedColour s = stepColour i s.cc s.stepIndex.toNat := by
  rw [latchedColour, decoded]

/-- Settles O34: the answer reaches `answerFirst`, which appends its own result and whose PHASE alone depends on it. -/
theorem firstAttemptAnswered : Obligations.FirstAttemptAnswered := by
  intro s r rest pending running phase
  rw [step_eq_deliver pending, deliver_ans_of_att1 (s := { s with inputs := rest }) running phase,
    answerFirst_eq]

/-- Settles O35: the answer reaches `answerSecond`; on `failed` its two events are appended one after the other. -/
theorem secondAttemptAnswered : Obligations.SecondAttemptAnswered := by
  intro s rest running phase
  constructor
  · intro pending
    rw [step_eq_deliver pending, deliver_ans_of_att2 (s := { s with inputs := rest }) running phase,
      answerSecond_ok]
  · intro pending
    rw [step_eq_deliver pending, deliver_ans_of_att2 (s := { s with inputs := rest }) running phase,
      answerSecond_failed]

/-- Settles O36: the end of the wait reaches `advance`, whose two branches that go on are the two clauses. -/
theorem waitOverAdvances : Obligations.WaitOverAdvances := by
  intro s rest pending running phase
  rw [step_eq_deliver pending, deliver_tick_of_wait (s := { s with inputs := rest }) running phase]
  constructor
  · intro last
    exact advance_of_last last
  · intro i c more decoded colour
    exact advance_of_colour more ((latchedColour_of_decode (s := endWait { s with inputs := rest }) decoded).trans colour)

end Sys2Proof.Machine
end

section
/-! PROOF. The big step (R186): the micro-steps of one step, fed in turn, come together as one transition. -/

namespace Sys2Proof.Safety

open Sys2Proof.Machine

/-- An input that the block accepts is gone, and the rest is fed to the state it leaves. -/
theorem feed_cons_of_next {i : Input} {s t : State} (accepted : deliver i s = .next t) (is : List Input) :
    feed (i :: is) s = feed is t := by
  rw [feed_cons, accepted]

theorem feed_singleton (i : Input) (s : State) : feed [i] s = outcomeWithInputs [] (deliver i s) := by
  rw [feed_cons]
  cases deliver i s <;> rfl

/-- A step's answers applied micro-step by micro-step: the state in which its wait is running (R174, R175). -/
def afterAnswers : StepAnswers → State → State
  | .accepted, s => answerFirst .ok s
  | .retried, s => answerSecond .ok (answerFirst .failed s)
  | .lost, s => answerSecond .failed (answerFirst .failed s)

theorem afterAnswers_withInputs (a : StepAnswers) (xs : List Input) (s : State) :
    afterAnswers a (withInputs xs s) = withInputs xs (afterAnswers a s) := by
  cases a <;> rfl

@[simp] theorem afterAnswers_stepIndex (a : StepAnswers) (s : State) : (afterAnswers a s).stepIndex = s.stepIndex := by
  cases a <;> rfl

@[simp] theorem afterAnswers_nsteps (a : StepAnswers) (s : State) : (afterAnswers a s).nsteps = s.nsteps := by
  cases a <;> rfl

@[simp] theorem afterAnswers_seqState (a : StepAnswers) (s : State) : (afterAnswers a s).seqState = s.seqState := by
  cases a <;> rfl

@[simp] theorem afterAnswers_phase (a : StepAnswers) (s : State) : (afterAnswers a s).phase = .wait := by
  cases a <;> rfl

/-- A step's answers are accepted, from its first attempt on, and leave the end of the wait to come. -/
theorem feed_stepInputs_eq_feed_tick {s : State} (running : s.seqState = .running) (phase : s.phase = .att1)
    (a : StepAnswers) : feed (stepInputs a) s = feed [.tick] (afterAnswers a s) := by
  have first := deliver_ans_of_att1 running phase
  have retry := deliver_ans_of_att2 (s := answerFirst .failed s) running rfl
  cases a with
  | accepted => exact feed_cons_of_next (first .ok) _
  | retried => exact (feed_cons_of_next (first .failed) _).trans (feed_cons_of_next (retry .ok) _)
  | lost => exact (feed_cons_of_next (first .failed) _).trans (feed_cons_of_next (retry .failed) _)

/-- The end of the wait after any answers leads to `advance`. -/
theorem feed_tick_afterAnswers {s : State} (running : s.seqState = .running) (a : StepAnswers) :
    feed [.tick] (afterAnswers a s) = outcomeWithInputs [] (advance (afterAnswers a s)) := by
  rw [feed_singleton, deliver_tick_of_wait ((afterAnswers_seqState a s).trans running) (afterAnswers_phase a s)]

/-- The answers and the end of the wait have together the effect that `afterStep` writes out; only PHASE still stands at the
wait. -/
theorem endWait_afterAnswers (a : StepAnswers) (s : State) :
    endWait (afterAnswers a s) = { afterStep a s with phase := .wait } := by
  cases a with
  | accepted => simp [afterAnswers, answerFirst_eq, endWait, afterStep, stepEvents, writeEvents]
  | retried => simp [afterAnswers, answerFirst_eq, answerSecond_ok, endWait, afterStep, stepEvents, writeEvents]
  | lost => simp [afterAnswers, answerFirst_eq, answerSecond_failed, endWait, afterStep, stepEvents, writeEvents]

/-- R186: `advance` overwrites PHASE and reads no other register in which the two forms could differ. -/
theorem advance_afterAnswers (a : StepAnswers) (s : State) : advance (afterAnswers a s) = bigStep a s := by
  rw [advance, bigStep, afterAnswers_stepIndex, afterAnswers_nsteps, endWait_afterAnswers]
  rfl

/-- R186: one step's inputs, fed to its first attempt, act as the big step. -/
theorem feed_stepInputs {s : State} (running : s.seqState = .running) (phase : s.phase = .att1) (a : StepAnswers) :
    feed (stepInputs a) s = bigStep a (withInputs [] s) :=
  calc feed (stepInputs a) s
      = feed [.tick] (afterAnswers a s) := feed_stepInputs_eq_feed_tick running phase a
    _ = outcomeWithInputs [] (advance (afterAnswers a s)) := feed_tick_afterAnswers running a
    _ = advance (withInputs [] (afterAnswers a s)) := (advance_withInputs _ _).symm
    _ = advance (afterAnswers a (withInputs [] s)) := by rw [afterAnswers_withInputs]
    _ = bigStep a (withInputs [] s) := advance_afterAnswers _ _

/-- Settles O39: this is `feed_stepInputs`. -/
theorem microStepsMakeBigStep : Obligations.MicroStepsMakeBigStep :=
  fun _ a running phase => feed_stepInputs running phase a

end Sys2Proof.Safety
end

section
/-! PROOF. The answers do not reach the frames (R185): states that differ only in what answers decide stay so across a big
step, whichever answers each of the two is given; a run is a chain of big steps. -/

namespace Sys2Proof.Safety

open Sys2Proof.Machine

/-! ### The frame and delay sequences of a trace -/

theorem frameSequence_append (es fs : List Event) :
    frameSequence (es ++ fs) = frameSequence es ++ frameSequence fs := by
  induction es with
  | nil => rfl
  | cons e es ih =>
    cases e with
    | txAttempt k f ack r => cases ack <;> simp [frameSequence, ih]
    | writeError | wait | fault => exact ih

theorem delaySequence_append (es fs : List Event) :
    delaySequence (es ++ fs) = delaySequence es ++ delaySequence fs := by
  induction es with
  | nil => rfl
  | cons e es ih =>
    cases e with
    | wait k ms => exact congrArg (ms :: ·) ih
    | txAttempt | writeError | fault => exact ih

/-- Each step presents its frame once with acknowledge, whatever the answers: the retry asks for none (R175). -/
theorem frameSequence_stepEvents (k ms : Word32) (f : Frame) (a : StepAnswers) :
    frameSequence (stepEvents k ms f a) = [f] := by
  cases a <;> rfl

/-- Each step waits once, a lost one too (R176). -/
theorem delaySequence_stepEvents (k ms : Word32) (f : Frame) (a : StepAnswers) :
    delaySequence (stepEvents k ms f a) = [ms] := by
  cases a <;> rfl

/-! ### States that agree but for what answers decide -/

/-- The state with everything blanked that `sameButAnswers` does not compare field by field. -/
def eraseAnswers (s : State) : State :=
  { s with werr := false, werrcnt := 0, lasterr := 0, trace := [], inputs := [], hostData := [], reading := [] }

theorem sameButAnswers_iff {s t : State} :
    sameButAnswers s t ↔ eraseAnswers s = eraseAnswers t ∧
      frameSequence s.trace = frameSequence t.trace ∧ delaySequence s.trace = delaySequence t.trace := by
  simp [sameButAnswers, eraseAnswers, and_assoc]

section
variable {s t : State} (same : sameButAnswers s t)
include same

/-- What does not look at the blanked fields is the same in both states. -/
theorem sameButAnswers_congr {α : Type} (f : State → α) (blind : ∀ u, f (eraseAnswers u) = f u) : f s = f t :=
  calc f s
      = f (eraseAnswers s) := (blind s).symm
    _ = f (eraseAnswers t) := congrArg f (sameButAnswers_iff.mp same).1
    _ = f t := blind t

theorem sameButAnswers_stepIndex : s.stepIndex = t.stepIndex :=
  sameButAnswers_congr same State.stepIndex fun _ => rfl

theorem sameButAnswers_nsteps : s.nsteps = t.nsteps :=
  sameButAnswers_congr same State.nsteps fun _ => rfl

theorem sameButAnswers_seqState : s.seqState = t.seqState :=
  sameButAnswers_congr same State.seqState fun _ => rfl

theorem sameButAnswers_phase : s.phase = t.phase :=
  sameButAnswers_congr same State.phase fun _ => rfl

theorem sameButAnswers_delay : s.delay = t.delay :=
  sameButAnswers_congr same State.delay fun _ => rfl

theorem sameButAnswers_frame : s.frame = t.frame :=
  sameButAnswers_congr same State.frame fun _ => rfl

/-- The generator reads the latch, CC and STEP, none of which the answers reach (R170). -/
theorem latchedColour_eq_of_sameButAnswers : latchedColour s = latchedColour t :=
  sameButAnswers_congr same latchedColour fun _ => rfl

theorem sameButAnswers_beginStep (c : Color) : sameButAnswers (beginStep c s) (beginStep c t) := by
  obtain ⟨erased, frames, delays⟩ := sameButAnswers_iff.mp same
  exact sameButAnswers_iff.mpr ⟨congrArg (beginStep c) erased, frames, delays⟩

/-- The end of a run (R176). -/
theorem sameButAnswers_complete :
    sameButAnswers { s with seqState := .complete, phase := .none } { t with seqState := .complete, phase := .none } := by
  obtain ⟨erased, frames, delays⟩ := sameButAnswers_iff.mp same
  exact sameButAnswers_iff.mpr
    ⟨congrArg (fun u : State => { u with seqState := .complete, phase := .none }) erased, frames, delays⟩

/-- R185: one step, with any answers in each of the two states: the answers go into WERR, WERRCNT, LASTERR and events that
are neither a frame with acknowledge nor a wait. -/
theorem sameButAnswers_afterStep (a b : StepAnswers) : sameButAnswers (afterStep a s) (afterStep b t) := by
  obtain ⟨erased, frames, delays⟩ := sameButAnswers_iff.mp same
  have frame := sameButAnswers_frame same
  have delay := sameButAnswers_delay same
  refine sameButAnswers_iff.mpr
    ⟨congrArg (fun u : State => { u with stepIndex := u.stepIndex + 1 }) erased, ?frames, ?delays⟩
  case frames => simp only [afterStep, frameSequence_append, frameSequence_stepEvents, frames, frame]
  case delays => simp only [afterStep, delaySequence_append, delaySequence_stepEvents, delays, delay]

end

/-! ### One big step, and a run of them -/

/-- What a big step can do (R186). -/
theorem bigStep_cases {a : StepAnswers} {s t : State} (stepped : bigStep a s = .next t) :
    (s.stepIndex + 1 = s.nsteps ∧ t = { afterStep a s with seqState := .complete, phase := .none }) ∨
    (s.stepIndex + 1 ≠ s.nsteps ∧ ∃ c, latchedColour (afterStep a s) = some c ∧ t = beginStep c (afterStep a s)) := by
  rw [bigStep] at stepped
  by_cases last : s.stepIndex + 1 = s.nsteps
  · rw [if_pos last] at stepped
    exact .inl ⟨last, (Host.Outcome.next.inj stepped).symm⟩
  · rw [if_neg last] at stepped
    cases colour : latchedColour (afterStep a s) with
    | none => rw [colour] at stepped; cases stepped
    | some c =>
      rw [colour] at stepped
      exact .inr ⟨last, c, rfl, (Host.Outcome.next.inj stepped).symm⟩

/-- Between two steps a run that goes on is in its first attempt (R173). -/
theorem phase_of_bigStep {a : StepAnswers} {s t : State} (stepped : bigStep a s = .next t)
    (running : t.seqState = .running) : t.phase = .att1 := by
  obtain ⟨-, rfl⟩ | ⟨-, c, -, rfl⟩ := bigStep_cases stepped
  · cases running
  · rfl

/-- R185: the second state can follow the first's big step with any answers of its own. -/
theorem bigStep_sameButAnswers {s t s' : State} (same : sameButAnswers s t) {a : StepAnswers}
    (stepped : bigStep a s = .next s') (b : StepAnswers) : ∃ t', bigStep b t = .next t' ∧ sameButAnswers s' t' := by
  have after := sameButAnswers_afterStep same a b
  have stepIndex := sameButAnswers_stepIndex same
  have nsteps := sameButAnswers_nsteps same
  obtain ⟨last, rfl⟩ | ⟨more, c, colour, rfl⟩ := bigStep_cases stepped
  · rw [stepIndex, nsteps] at last
    exact ⟨_, by rw [bigStep, if_pos last], sameButAnswers_complete after⟩
  · rw [stepIndex, nsteps] at more
    rw [latchedColour_eq_of_sameButAnswers after] at colour
    exact ⟨_, by rw [bigStep, if_neg more, colour], sameButAnswers_beginStep after c⟩

/-- Outside Running a step's inputs are refused at the first answer. -/
theorem feed_stepInputs_of_not_running {s : State} (notRunning : s.seqState ≠ .running) (a : StepAnswers)
    (is : List Input) : feed (stepInputs a ++ is) s = .refused .noAttemptOutstanding := by
  cases a <;> simp only [stepInputs, List.cons_append, feed_cons, deliver_ans_of_not_running notRunning]

/-- R186: from a first attempt, an accepted run of inputs that begins with a step's begins with its big step. -/
theorem feed_stepInputs_append {s : State} (running : s.seqState = .running) (phase : s.phase = .att1)
    (a : StepAnswers) (is : List Input) (s' : State) :
    feed (stepInputs a ++ is) s = .next s' ↔ ∃ u, bigStep a (withInputs [] s) = .next u ∧ feed is u = .next s' := by
  rw [feed_append, feed_stepInputs running phase]
  cases bigStep a (withInputs [] s) <;> simp

/-- R185 along a run: the states between the steps stay the same but for the answers. `atStep` holds
of a run that is over too, and that one accepts no further answers. -/
theorem feed_answers_sameButAnswers {as bs : List StepAnswers} (sameLength : as.length = bs.length) {s t s' : State}
    (same : sameButAnswers s t) (atStep : s.seqState = .running → s.phase = .att1)
    (run : feed (as.flatMap stepInputs) s = .next s') :
    ∃ t', feed (bs.flatMap stepInputs) t = .next t' ∧ sameButAnswers s' t' := by
  induction as generalizing bs s t with
  | nil =>
    obtain rfl := List.length_eq_zero_iff.mp sameLength.symm
    obtain rfl : withInputs [] s = s' := Host.Outcome.next.inj run
    exact ⟨withInputs [] t, feed_nil t, same⟩
  | cons a as ih =>
    obtain ⟨b, bs, rfl⟩ := List.exists_cons_of_length_eq_add_one sameLength.symm
    rw [List.flatMap_cons] at run ⊢
    by_cases running : s.seqState = .running
    · have phase := atStep running
      obtain ⟨u, stepped, rest⟩ := (feed_stepInputs_append running phase a _ s').mp run
      have same' : sameButAnswers (withInputs [] s) (withInputs [] t) := same
      obtain ⟨v, stepped', sameNext⟩ := bigStep_sameButAnswers same' stepped b
      obtain ⟨t', rest', sameEnd⟩ := ih (Nat.succ.inj sameLength) sameNext (phase_of_bigStep stepped) rest
      have running' := (sameButAnswers_seqState same).symm.trans running
      have phase' := (sameButAnswers_phase same).symm.trans phase
      exact ⟨t', (feed_stepInputs_append running' phase' b _ t').mpr ⟨v, stepped', rest'⟩, sameEnd⟩
    · rw [feed_stepInputs_of_not_running running] at run
      cases run

/-- Settles O60: `feed_answers_sameButAnswers`, begun in a first attempt. -/
theorem answersDoNotChangeFrames : Obligations.AnswersDoNotChangeFrames :=
  fun _ _ _ _ _ same _ phase sameLength run => feed_answers_sameButAnswers sameLength same (fun _ => phase) run

end Sys2Proof.Safety
end

section
/-! PROOF. The encoding (R90 to R97): for each operation its opcode, the bytes that must be zero and how its operands are
read. The decoder, the encoder and the opcode table are all compared with these nine rows. -/

namespace Sys2Proof

/-- What the decoder does with one opcode: the bytes it wants zero, and the operation it then reads. -/
structure OpFormat where
  opcode : Byte
  zeros : List (Fin 16)
  read : Descriptor → Instr

/-- R91 to R96, one row per operation, in the order of the opcode map (R94). -/
def opFormats : List OpFormat :=
  [⟨0x01, [4, 5, 6, 7, 8, 9, 10, 11, 12, 13, 14, 15], fun d => .encode d[1] d[2] d[3]⟩,
   ⟨0x02, [5, 6, 7, 8, 9, 10, 11, 12, 13, 14, 15], fun d => .compensate d[1] d[2] d[3] d[4]⟩,
   ⟨0x03, [1, 2, 3], fun d => .hsl2rgb (half d[4] d[5]) (half d[6] d[7]) (half d[8] d[9]) (half d[10] d[11])
      (half d[12] d[13]) (half d[14] d[15])⟩,
   ⟨0x10, [5, 6, 7, 8, 9, 10, 11, 12, 13, 14, 15], fun d => .setcolor d[1] d[2] d[3] d[4]⟩,
   ⟨0x11, [5, 12, 13, 14, 15],
      fun d => .pulse d[1] d[2] d[3] d[4] (half d[6] d[7]) (word32 d[8] d[9] d[10] d[11])⟩,
   ⟨0x12, [12, 13, 14, 15],
      fun d => .smooth d[1] d[2] d[3] d[4] d[5] (half d[6] d[7]) (word32 d[8] d[9] d[10] d[11])⟩,
   ⟨0x13, [5, 12, 13, 14, 15],
      fun d => .flash d[1] d[2] d[3] d[4] (half d[6] d[7]) (word32 d[8] d[9] d[10] d[11])⟩,
   ⟨0x14, [1, 2, 3, 5, 12, 13, 14, 15], fun d => .rainbow d[4] (half d[6] d[7]) (word32 d[8] d[9] d[10] d[11])⟩,
   ⟨0x15, [5, 12, 13, 14, 15],
      fun d => .running d[1] d[2] d[3] d[4] (half d[6] d[7]) (word32 d[8] d[9] d[10] d[11])⟩]

/-- The descriptor has the row's opcode, and zero wherever the row wants it. -/
def OpFormat.Fits (f : OpFormat) (d : Descriptor) : Prop := d[0] = f.opcode ∧ ∀ k ∈ f.zeros, d.get k = 0

/-! ### The decoder -/

theorem guardZero_of_zero {d : Descriptor} {zeros : List (Fin 16)} (zero : ∀ k ∈ zeros, d.get k = 0) (i : Instr) :
    guardZero d zeros i = .ok i :=
  if_pos (by simpa using zero)

theorem guardZero_of_nonzero {d : Descriptor} {zeros : List (Fin 16)} (nonzero : ¬ ∀ k ∈ zeros, d.get k = 0) (i : Instr) :
    guardZero d zeros i = .error .reservedNonzero :=
  if_neg (by simpa using nonzero)

/-- R97 check 1: the opcode alone selects the row. -/
theorem decode_of_opcode {f : OpFormat} (mem : f ∈ opFormats) {d : Descriptor} (op : d[0] = f.opcode) :
    decode d = guardZero d f.zeros (f.read d) := by
  revert f
  simp only [opFormats, List.forall_mem_cons, decode]
  refine ⟨?_, ?_, ?_, ?_, ?_, ?_, ?_, ?_, ?_, by simp⟩ <;> intro op <;> rw [op] <;> rfl

theorem decode_of_no_opcode {d : Descriptor} (unknown : ∀ f ∈ opFormats, d[0] ≠ f.opcode) :
    decode d = .error .illegalOp := by
  simp only [opFormats, List.forall_mem_cons] at unknown
  obtain ⟨h1, h2, h3, h4, h5, h6, h7, h8, h9, -⟩ := unknown
  rw [decode, if_neg h1, if_neg h2, if_neg h3, if_neg h4, if_neg h5, if_neg h6, if_neg h7, if_neg h8, if_neg h9]

theorem decode_of_fits {f : OpFormat} (mem : f ∈ opFormats) {d : Descriptor} (fits : f.Fits d) :
    decode d = .ok (f.read d) :=
  (decode_of_opcode mem fits.1).trans (guardZero_of_zero fits.2 _)

theorem decode_of_not_fits {f : OpFormat} (mem : f ∈ opFormats) {d : Descriptor} (op : d[0] = f.opcode)
    (misfit : ¬ f.Fits d) : decode d = .error .reservedNonzero :=
  (decode_of_opcode mem op).trans (guardZero_of_nonzero (fun zero => misfit ⟨op, zero⟩) _)

/-- R97: what the decoder accepts fits a row and is read as that row says. -/
theorem fits_of_decode {d : Descriptor} {i : Instr} (accepted : decode d = .ok i) :
    ∃ f ∈ opFormats, f.Fits d ∧ f.read d = i := by
  by_cases known : ∃ f ∈ opFormats, d[0] = f.opcode
  · obtain ⟨f, mem, op⟩ := known
    by_cases fits : f.Fits d
    · exact ⟨f, mem, fits, Except.ok.inj ((decode_of_fits mem fits).symm.trans accepted)⟩
    · rw [decode_of_not_fits mem op fits] at accepted
      cases accepted
  · rw [decode_of_no_opcode fun f mem op => known ⟨f, mem, op⟩] at accepted
    cases accepted

/-! ### The encoder -/

/-- R100: the encoder's descriptor fits the operation's row, which reads its operands back from their bytes. -/
theorem encode_fits (i : Instr) : ∃ f ∈ opFormats, f.Fits (encode i) ∧ f.read (encode i) = i := by
  cases i with
  | encode =>
    exact ⟨opFormats[0], List.getElem_mem _, ⟨rfl, by simp [opFormats, encode, formatC, Vector.get]⟩, rfl⟩
  | compensate =>
    exact ⟨opFormats[1], List.getElem_mem _, ⟨rfl, by simp [opFormats, encode, formatC, Vector.get]⟩, rfl⟩
  | hsl2rgb =>
    exact ⟨opFormats[2], List.getElem_mem _, ⟨rfl, by simp [opFormats, encode, formatH, Vector.get]⟩,
      by simp [opFormats, encode, formatH]⟩
  | setcolor =>
    exact ⟨opFormats[3], List.getElem_mem _, ⟨rfl, by simp [opFormats, encode, formatC, Vector.get]⟩, rfl⟩
  | pulse =>
    exact ⟨opFormats[4], List.getElem_mem _, ⟨rfl, by simp [opFormats, encode, formatA, Vector.get]⟩,
      by simp [opFormats, encode, formatA]⟩
  | smooth =>
    exact ⟨opFormats[5], List.getElem_mem _, ⟨rfl, by simp [opFormats, encode, formatA, Vector.get]⟩,
      by simp [opFormats, encode, formatA]⟩
  | flash =>
    exact ⟨opFormats[6], List.getElem_mem _, ⟨rfl, by simp [opFormats, encode, formatA, Vector.get]⟩,
      by simp [opFormats, encode, formatA]⟩
  | rainbow =>
    exact ⟨opFormats[7], List.getElem_mem _, ⟨rfl, by simp [opFormats, encode, formatA, Vector.get]⟩,
      by simp [opFormats, encode, formatA]⟩
  | running =>
    exact ⟨opFormats[8], List.getElem_mem _, ⟨rfl, by simp [opFormats, encode, formatA, Vector.get]⟩,
      by simp [opFormats, encode, formatA]⟩

/-- An operation's encoding decodes to it. -/
theorem decode_encode (i : Instr) : decode (encode i) = .ok i := by
  obtain ⟨f, mem, fits, read⟩ := encode_fits i
  rw [decode_of_fits mem fits, read]

/-- Settles O1: this is `decode_encode`. -/
theorem decodeEncodeRoundTrip : Obligations.DecodeEncodeRoundTrip := decode_encode

/-- R91: a descriptor of format C is made of its first five bytes. -/
theorem formatC_eq {d : Descriptor} {op bri : Byte} (b0 : d[0] = op) (b4 : d[4] = bri)
    (zero : ∀ k ∈ [5, 6, 7, 8, 9, 10, 11, 12, 13, 14, 15], d.get k = 0) : formatC op d[1] d[2] d[3] bri = d := by
  subst b0 b4
  simp only [List.forall_mem_cons] at zero
  obtain ⟨z5, z6, z7, z8, z9, z10, z11, z12, z13, z14, z15, -⟩ := zero
  refine Vector.ext fun k hk => ?_
  interval_cases k
  iterate 5 · rfl
  all_goals symm; assumption

/-- R92: a descriptor of format A is made of its first six bytes and the fields that the next six hold. -/
theorem formatA_eq {d : Descriptor} {op r g b bri2 : Byte} (b0 : d[0] = op) (b1 : d[1] = r) (b2 : d[2] = g)
    (b3 : d[3] = b) (b5 : d[5] = bri2) (zero : ∀ k ∈ [12, 13, 14, 15], d.get k = 0) :
    formatA op r g b d[4] bri2 (half d[6] d[7]) (word32 d[8] d[9] d[10] d[11]) = d := by
  subst b0 b1 b2 b3 b5
  simp only [List.forall_mem_cons] at zero
  obtain ⟨z12, z13, z14, z15, -⟩ := zero
  obtain ⟨b8, b9, b10, b11⟩ := byteAt_word32 d[8] d[9] d[10] d[11]
  have b6 := byteAt_half_zero d[6] d[7]
  have b7 := byteAt_half_one d[6] d[7]
  refine Vector.ext fun k hk => ?_
  interval_cases k
  iterate 6 · rfl
  iterate 6 · assumption
  all_goals symm; assumption

/-- R93: a descriptor of format H is made of its opcode and six fields. -/
theorem formatH_eq {d : Descriptor} {op : Byte} (b0 : d[0] = op) (zero : ∀ k ∈ [1, 2, 3], d.get k = 0) :
    formatH op (half d[4] d[5]) (half d[6] d[7]) (half d[8] d[9]) (half d[10] d[11]) (half d[12] d[13])
      (half d[14] d[15]) = d := by
  subst b0
  simp only [List.forall_mem_cons] at zero
  obtain ⟨z1, z2, z3, -⟩ := zero
  simp only [formatH, byteAt_half_zero, byteAt_half_one]
  refine Vector.ext fun k hk => ?_
  interval_cases k
  · rfl
  iterate 3 · symm; assumption
  all_goals rfl

/-- R91 to R96: a descriptor that fits a row is rebuilt from what the row reads. A byte of the format that the operation does
not use is one of the row's zeros. -/
theorem encode_read {f : OpFormat} (mem : f ∈ opFormats) {d : Descriptor} (fits : f.Fits d) : encode (f.read d) = d := by
  obtain ⟨op, zero⟩ := fits
  simp only [opFormats, List.mem_cons, List.not_mem_nil, or_false] at mem
  obtain rfl | rfl | rfl | rfl | rfl | rfl | rfl | rfl | rfl := mem
  · exact formatC_eq op (zero 4 (by simp)) fun k mem => zero k (.tail _ mem)
  · exact formatC_eq op rfl zero
  · exact formatH_eq op zero
  · exact formatC_eq op rfl zero
  · exact formatA_eq op rfl rfl rfl (zero 5 (by simp)) fun k mem => zero k (.tail _ mem)
  · exact formatA_eq op rfl rfl rfl rfl zero
  · exact formatA_eq op rfl rfl rfl (zero 5 (by simp)) fun k mem => zero k (.tail _ mem)
  · exact formatA_eq op (zero 1 (by simp)) (zero 2 (by simp)) (zero 3 (by simp)) (zero 5 (by simp))
      fun k mem => zero k (List.mem_append_right [1, 2, 3, 5] mem)
  · exact formatA_eq op rfl rfl rfl (zero 5 (by simp)) fun k mem => zero k (.tail _ mem)

/-- Settles O2: the descriptor fits the row it is read by, and `encode_read` rebuilds it. -/
theorem encodeDecodeRoundTrip : Obligations.EncodeDecodeRoundTrip := by
  intro d i accepted
  obtain ⟨f, mem, fits, rfl⟩ := fits_of_decode accepted
  exact encode_read mem fits

/-! ### The opcode table (R94) -/

/-- The bytes that the row's mask keeps: the opcode and those that must be zero. -/
def OpFormat.maskBytes (f : OpFormat) : Descriptor := Vector.ofFn fun k => if k = 0 ∨ k ∈ f.zeros then 0xFF else 0

/-- The row as spec/opcode_table.json writes it. -/
def OpFormat.row (f : OpFormat) : TableRow :=
  ⟨f.opcode, wordOfDescriptor (Laws.TableRowMatches.patternBytes f.opcode), wordOfDescriptor f.maskBytes⟩

theorem opcodeTable_eq : opcodeTable = opFormats.map OpFormat.row := by decide

theorem get_ofFn {α : Type} {n : ℕ} (g : Fin n → α) (k : Fin n) : (Vector.ofFn g).get k = g k :=
  Vector.getElem_ofFn k.isLt

theorem get_maskBytes (f : OpFormat) (k : Fin 16) :
    f.maskBytes.get k = if k = 0 ∨ k ∈ f.zeros then 0xFF else 0 :=
  get_ofFn _ k

theorem get_patternBytes (op : Byte) (k : Fin 16) :
    (Laws.TableRowMatches.patternBytes op).get k = if k = 0 then op else 0 := by
  fin_cases k <;> rfl

/-- R94: masked with the row's mask a descriptor is the row's pattern exactly when it fits the row. -/
theorem row_matches_iff {f : OpFormat} (mem : f ∈ opFormats) (d : Descriptor) :
    wordOfDescriptor d &&& f.row.mask = f.row.pattern ↔ f.Fits d := by
  have opNotZero : 0 ∉ f.zeros := by
    revert f
    decide
  have ones (x : Byte) : x &&& 0xFF#8 = x := Laws.TableRowMatches.byte_and_ones x
  constructor
  · intro matched
    have bytes (k : Fin 16) : d.get k &&& f.maskBytes.get k = (Laws.TableRowMatches.patternBytes f.opcode).get k := by
      have masked := wordOfDescriptor_inj ((wordOfDescriptor_and d f.maskBytes).symm.trans matched)
      rw [← masked, get_ofFn]
    simp only [get_maskBytes, get_patternBytes] at bytes
    have op : d.get 0 = f.opcode := by simpa [ones] using bytes 0
    refine ⟨op, fun k zero => ?_⟩
    have notOp : k ≠ 0 := fun op => opNotZero (op ▸ zero)
    simpa [ones, notOp, zero] using bytes k
  · rintro ⟨op, zero⟩
    refine Laws.TableRowMatches.of_bytes rfl rfl fun k => ?_
    rw [get_maskBytes, get_patternBytes]
    by_cases isOp : k = 0
    · have first : d.get 0 = f.opcode := op
      simp [isOp, ones, first]
    · by_cases isZero : k ∈ f.zeros
      · simp [isOp, isZero, zero k isZero]
      · simp [isOp, isZero]

/-- R94: each row reads the operation that has its opcode. -/
theorem opcode_read {f : OpFormat} (mem : f ∈ opFormats) (d : Descriptor) : opcode (f.read d) = f.opcode := by
  simp only [opFormats, List.mem_cons, List.not_mem_nil, or_false] at mem
  obtain rfl | rfl | rfl | rfl | rfl | rfl | rfl | rfl | rfl := mem <;> rfl

/-- Settles O3: the rows of the table are those of `opFormats`, and to match one is to fit it. -/
theorem decodeFollowsOpcodeTable : Obligations.DecodeFollowsOpcodeTable := by
  intro d
  simp only [opcodeTable_eq, List.forall_mem_map]
  refine ⟨fun f mem matched => ?_, fun unmatched => ?_⟩
  · have fits := (row_matches_iff mem d).mp matched
    exact ⟨_, decode_of_fits mem fits, opcode_read mem d⟩
  · by_cases known : ∃ f ∈ opFormats, d[0] = f.opcode
    · obtain ⟨f, mem, op⟩ := known
      have inTable : ∃ row ∈ opFormats.map OpFormat.row, row.opcode = d[0] := ⟨f.row, List.mem_map_of_mem mem, op.symm⟩
      rw [if_pos inTable]
      exact decode_of_not_fits mem op (mt (row_matches_iff mem d).mpr (unmatched f mem))
    · have notInTable : ¬ ∃ row ∈ opFormats.map OpFormat.row, row.opcode = d[0] := by
        rintro ⟨_, inTable, op⟩
        obtain ⟨f, mem, rfl⟩ := List.mem_map.mp inTable
        exact known ⟨f, mem, op.symm⟩
      rw [if_neg notInTable]
      exact decode_of_no_opcode fun f mem op => known ⟨f, mem, op⟩

/-- Settles O4: each of the nine is one evaluation of the decoder. -/
theorem writtenDescriptorsDecode : Obligations.WrittenDescriptorsDecode :=
  ⟨rfl, rfl, rfl, rfl, rfl, rfl, rfl⟩

end Sys2Proof
end

section
/-! PROOF. The compensator's properties (R135), from the scaler's bounds: the gain look-up caps the brightness itself, so the
results are device channel values at every brightness. -/

namespace Sys2Proof.Machine

/-- R37: the look-up caps its index. -/
theorem gain_eq_min (b : ℕ) : gain b = 100 + 227 * min b 100 := by
  have capped : gain b = gain (min b 100) := by rw [gain, gain, Nat.min_assoc, Nat.min_self]
  rw [capped, gain_eq (Nat.min_le_right b 100)]

theorem gain_mono {b b' : ℕ} (le : b ≤ b') : gain b ≤ gain b' := by
  rw [gain_eq_min, gain_eq_min]
  omega

theorem gain_le (b : ℕ) : gain b ≤ 22800 := by
  rw [gain_eq_min]
  omega

theorem scale_mono {v w b b' : ℕ} (channels : v ≤ w) (brightnesses : b ≤ b') : scale v b ≤ scale w b' := by
  have product : v * gain b ≤ w * gain b' := Nat.mul_le_mul channels (gain_mono brightnesses)
  unfold scale
  omega

theorem one_le_scale (v b : ℕ) : 1 ≤ scale v b := Nat.le_max_left _ _

/-- R135 (e): full white at full brightness is 228. -/
theorem scale_le {v : ℕ} (byte : v ≤ 255) (b : ℕ) : scale v b ≤ 228 := by
  have product : v * gain b ≤ 255 * 22800 := Nat.mul_le_mul byte (gain_le b)
  unfold scale
  omega

theorem channel_zero (b : ℕ) : channel 0 b = 0 := if_pos rfl

theorem toNat_channel {v : Byte} (lit : v ≠ 0) (b : ℕ) : (channel v b).toNat = scale v.toNat b := by
  have fits := scale_le (b := b) (Nat.le_of_lt_succ v.isLt)
  rw [channel, if_neg lit, BitVec.toNat_ofNat]
  omega

/-- R135 (c), (d): brighter or fuller is not darker. -/
theorem channel_mono {v w : Byte} {b b' : ℕ} (channels : v.toNat ≤ w.toNat) (brightnesses : b ≤ b') :
    (channel v b).toNat ≤ (channel w b').toNat := by
  by_cases off : v = 0
  · subst off
    rw [channel_zero]
    exact Nat.zero_le _
  · have lit : w ≠ 0 := by
      rintro rfl
      exact off (BitVec.eq_of_toNat_eq (Nat.le_zero.mp channels))
    rw [toNat_channel off, toNat_channel lit]
    exact scale_mono channels brightnesses

/-- R135 (b), (e), (f): a lit channel stays lit, within the device's range. -/
theorem channel_range {v : Byte} (lit : v ≠ 0) (b : ℕ) : 1 ≤ (channel v b).toNat ∧ (channel v b).toNat ≤ 228 := by
  rw [toNat_channel lit]
  exact ⟨one_le_scale _ _, scale_le (Nat.le_of_lt_succ v.isLt) b⟩

/-- Settles O15: range and monotonicity of a channel, at any brightness. -/
theorem compensateProperties : Obligations.CompensateProperties := by
  refine ⟨fun _ => rfl, fun v b _ _ => ?range, fun v b _ _ => channel_mono le_rfl b.le_succ,
    fun v w b _ channels => channel_mono channels le_rfl⟩
  case range =>
    by_cases off : v = 0
    · subst off
      rw [channel_zero]
      decide
    · obtain ⟨low, high⟩ := channel_range off b
      exact ⟨⟨fun dark => by omega, fun off' => absurd off' off⟩, fun _ => low, high⟩

end Sys2Proof.Machine

namespace Sys2Proof.Safety

open Sys2Proof.Machine

theorem deviceColour_black : deviceColour Color.black := ⟨.inl rfl, .inl rfl, .inl rfl⟩

theorem deviceChannel_channel (v : Byte) (b : ℕ) : deviceChannel (channel v b) := by
  by_cases off : v = 0
  · exact .inl (by rw [off, channel_zero])
  · exact .inr (channel_range off b)

/-- R135: the compensator gives device colours, whatever the brightness. -/
theorem deviceColour_compensate (c : Color) (b : ℕ) : deviceColour (compensate c b) := by
  by_cases dark : b = 0
  · rw [compensate, if_pos dark]
    exact deviceColour_black
  · rw [compensate, if_neg dark]
    exact ⟨deviceChannel_channel _ b, deviceChannel_channel _ b, deviceChannel_channel _ b⟩

end Sys2Proof.Safety
end

section
/-! PROOF. The converter's operations: HSL2RGB is the document's conversion (R155), equal fractions convert alike (R150), the
corner cases (R155), and RAINBOW's hues (R203). -/

namespace Sys2Proof.Machine

/-- R97 check 3, R243: the fraction is in [0,1]. -/
theorem fractionLegal_iff {num den : Half} : fractionLegal num den = true ↔ den ≠ 0 ∧ num.toNat ≤ den.toNat := by
  simp [fractionLegal]

theorem toNat_pos_of_ne_zero {w : ℕ} {x : BitVec w} (nonzero : x ≠ 0) : 0 < x.toNat :=
  Nat.pos_of_ne_zero fun zero => nonzero (BitVec.eq_of_toNat_eq (by simpa using zero))

/-- Settles O10: the operands are in the domain, so RES is the converted colour, and the converter is the document's. -/
theorem hsl2rgbWritesResOnly : Obligations.Hsl2rgbWritesResOnly := by
  intro hnum hden snum sden lnum lden s hpos spos lpos hle sle lle
  have legal : (fractionLegal hnum hden && fractionLegal snum sden && fractionLegal lnum lden) = true := by
    simp only [Bool.and_eq_true, fractionLegal_iff]
    exact ⟨⟨⟨hpos, hle⟩, spos, sle⟩, lpos, lle⟩
  have converted := hslToRgb_eq_hslByte (Denotes.natCast_div hnum.toNat (toNat_pos_of_ne_zero hpos))
    (Denotes.natCast_div snum.toNat (toNat_pos_of_ne_zero spos))
    (Denotes.natCast_div lnum.toNat (toNat_pos_of_ne_zero lpos))
  rw [exec, execHsl2rgb, if_pos legal]
  exact congrArg (fun c => Host.Outcome.next { s with res := c }) converted

/-- Settles O11: some fraction is outside its domain, and the fault entry is `raiseFault`. -/
theorem hsl2rgbBadFractionFaults : Obligations.Hsl2rgbBadFractionFaults := by
  intro hnum hden snum sden lnum lden s bad
  have illegal : ¬ (fractionLegal hnum hden && fractionLegal snum sden && fractionLegal lnum lden) = true := by
    simp only [Bool.and_eq_true, fractionLegal_iff]
    rintro ⟨⟨⟨hpos, hle⟩, spos, sle⟩, lpos, lle⟩
    obtain h | h | h | h | h | h := bad
    · exact hpos h
    · exact spos h
    · exact lpos h
    · omega
    · omega
    · omega
  rw [exec, execHsl2rgb, if_neg illegal]
  rfl

/-- A fraction that may be divided by stands for its own value. -/
theorem Denotes.self {x : Frac} (pos : 0 < x.den) : Denotes x (Reference.value x) := ⟨pos, rfl⟩

/-- Fractions equal by cross multiplication have one value. -/
theorem value_eq_of_cross {x y : Frac} (xpos : 0 < x.den) (ypos : 0 < y.den) (cross : x.num * y.den = y.num * x.den) :
    Reference.value x = Reference.value y := by
  rw [Reference.value, Reference.value, div_eq_div_iff (Denotes.self xpos).den_ne_zero (Denotes.self ypos).den_ne_zero]
  exact_mod_cast cross

/-- Settles O17: the converter depends on the values alone. -/
theorem converterIgnoresFractionForm : Obligations.ConverterIgnoresFractionForm := by
  intro h s l h' s' l' hpos spos lpos hpos' spos' lpos' heq seq leq
  rw [hslToRgb_eq_hslByte (Denotes.self hpos) (Denotes.self spos) (Denotes.self lpos),
    hslToRgb_eq_hslByte (Denotes.self hpos') (Denotes.self spos') (Denotes.self lpos'),
    value_eq_of_cross hpos hpos' heq, value_eq_of_cross spos spos' seq, value_eq_of_cross lpos lpos' leq]

/-! ### Corner cases (R155) -/

/-- R152: between equal bounds every hue gives the bound. -/
theorem segment_self (x t : ℚ) : Reference.segment x x t = x := by
  unfold Reference.segment
  split_ifs <;> ring

/-- R151 at lightness 0. -/
theorem hslChannel_dark (h s offset : ℚ) : Reference.hslChannel h s 0 offset = 0 := by
  have q : Reference.upper s 0 = 0 := by norm_num [Reference.upper]
  rw [Reference.hslChannel, q, mul_zero, sub_zero, segment_self, ite_self]

/-- R151 at lightness 1. -/
theorem hslChannel_full (h s offset : ℚ) : Reference.hslChannel h s 1 offset = 1 := by
  have q : Reference.upper s 1 = 1 := by norm_num [Reference.upper]
  have p : (2 * 1 - 1 : ℚ) = 1 := by norm_num
  rw [Reference.hslChannel, q, p, segment_self, ite_self]

/-- R152: a whole turn is no turn. -/
theorem hslChannel_turn {s l offset : ℚ} (low : -1 ≤ offset) (high : offset < 1) :
    Reference.hslChannel 1 s l offset = Reference.hslChannel 0 s l offset := by
  have wrapped : Reference.wrapHue (1 + offset) = Reference.wrapHue (0 + offset) := by
    rw [wrapHue_eq_fract (by linarith) (by linarith), wrapHue_eq_fract (by linarith) (by linarith), add_comm 1,
      Int.fract_add_one, zero_add]
  simp only [Reference.hslChannel, Reference.segment, wrapped]

theorem hslByte_turn {s l offset : ℚ} (low : -1 ≤ offset) (high : offset < 1) :
    hslByte 1 s l offset = hslByte 0 s l offset := by
  rw [hslByte, hslByte, hslChannel_turn low high]

theorem hslByte_dark (h s offset : ℚ) : hslByte h s 0 offset = 0 := by
  have dark : 0 = Reference.roundHalfUp 0 := (Denotes.ofNat 0 Nat.cast_zero).rhu_eq
  rw [hslByte, hslChannel_dark, zero_mul, ← dark]
  rfl

theorem hslByte_full (h s offset : ℚ) : hslByte h s 1 offset = 255 := by
  have full : 255 = Reference.roundHalfUp 255 := (Denotes.ofNat 255 Nat.cast_ofNat).rhu_eq
  rw [hslByte, hslChannel_full, one_mul, ← full]
  rfl

theorem Denotes.zero {d : ℕ} (pos : 0 < d) : Denotes ⟨0, d⟩ 0 := by simpa using Denotes.natCast_div 0 pos

theorem Denotes.one {d : ℕ} (pos : 0 < d) : Denotes ⟨d, d⟩ 1 := by
  have whole : (d / d : ℚ) = 1 := div_self (Nat.cast_ne_zero.mpr pos.ne')
  exact whole ▸ Denotes.natCast_div d pos

/-- Settles O18: the four cases of the document's formula, carried over by the values of the fractions. -/
theorem converterCornerCases : Obligations.ConverterCornerCases := by
  intro hn hd sn sd ln ld hpos spos lpos _ _ _
  have hue := Denotes.natCast_div hn hpos
  have saturation := Denotes.natCast_div sn spos
  have lightness := Denotes.natCast_div ln lpos
  refine ⟨fun h' => ?grey, ?dark, ?full, ?turn⟩
  case grey => rw [hslToRgb, hslToRgb, if_pos rfl, if_pos rfl]
  case dark => rw [hslToRgb_eq_hslByte hue saturation (.zero lpos), hslByte_dark, hslByte_dark, hslByte_dark]
  case full => rw [hslToRgb_eq_hslByte hue saturation (.one lpos), hslByte_full, hslByte_full, hslByte_full]
  case turn =>
    rw [hslToRgb_eq_hslByte (.one hpos) saturation lightness, hslToRgb_eq_hslByte (.zero hpos) saturation lightness,
      hslByte_turn (by norm_num) (by norm_num), hslByte_turn (by norm_num) (by norm_num),
      hslByte_turn (by norm_num) (by norm_num)]

/-- Settles O32: the sector form, compensated. -/
theorem rainbowStepColours : Obligations.RainbowStepColours := by
  intro bri steps dur cc k less
  have sector := converterSectorForm k steps.toNat less
  rw [stepColour, seqSteps, rainbowSteps, if_pos less]
  exact congrArg (fun c => some (compensate c (clampb bri))) sector

/-- R203: hue 0 is red. -/
theorem rainbowColour_zero (bri : Byte) {steps : Half} (nonzero : steps ≠ 0) :
    rainbowColour bri steps 0 = compensate ⟨255, 0, 0⟩ (clampb bri) := by
  have pos := toNat_pos_of_ne_zero nonzero
  have sector := converterSectorForm 0 steps.toNat pos
  have noRise : (510 * 0 + steps.toNat) / (2 * steps.toNat) = 0 := Nat.div_eq_of_lt (by omega)
  simp only [Nat.mul_zero, Nat.zero_div, Nat.zero_mod] at sector noRise
  rw [noRise] at sector
  exact congrArg (compensate · (clampb bri)) sector

end Sys2Proof.Machine
end

section
/-! PROOF. The ramps (R200, R201, R205): the quantiser is exact on multiples of its divisor and monotone, so a ramp has its
ends and its directions; and the colours of PULSE, SMOOTH, FLASH and RUNNING step by step. -/

namespace Sys2Proof.Machine

/-- R8: an exact quotient is not moved by the rounding. -/
theorem rhu_mul_left {d : ℕ} (pos : 0 < d) (x : ℕ) : rhu (d * x) d = x := by
  have split : 2 * (d * x) + d = d + 2 * d * x := by ring
  rw [rhu, split, Nat.add_mul_div_left _ _ (by omega), Nat.div_eq_of_lt (by omega), Nat.zero_add]

theorem rhu_mono {n m : ℕ} (le : n ≤ m) (d : ℕ) : rhu n d ≤ rhu m d :=
  Nat.div_le_div_right (by omega)

/-! ### PULSE -/

theorem pulseIndex_eq_min {steps : Half} {k : ℕ} (inRange : k ≤ 2 * steps.toNat) :
    pulseIndex steps k = min k (2 * steps.toNat - k) := by
  unfold pulseIndex
  split_ifs <;> omega

/-- R200: the brightness follows the index. -/
theorem pulseBrightness_mono {bri : Byte} {steps : Half} {j k : ℕ} (le : pulseIndex steps j ≤ pulseIndex steps k) :
    pulseBrightness bri steps j ≤ pulseBrightness bri steps k :=
  rhu_mono (Nat.mul_le_mul_right _ le) _

/-- Settles O27: the index is the smaller distance from an end, and the quotient of integers is the document's rational. -/
theorem pulseStepColours : Obligations.PulseStepColours := by
  intro r g b bri steps dur cc k nonzero inRange
  have pos := toNat_pos_of_ne_zero nonzero
  have rational : ((min k (2 * steps.toNat - k) : ℕ) / steps.toNat * (min bri.toNat 100 : ℕ) : ℚ) =
      (min k (2 * steps.toNat - k) * min bri.toNat 100 : ℕ) / steps.toNat := by
    rw [Nat.cast_mul]
    ring
  rw [stepColour, seqSteps, pulseSteps, if_pos (by omega), rational, roundHalfUp_natCast_div _ pos, seqColour,
    pulseColour, pulseBrightness, pulseIndex_eq_min inRange]
  rfl

/-- Settles O28: each clause is one about the index, which rises from 0 to `S` and falls again. -/
theorem pulseRampSymmetric : Obligations.PulseRampSymmetric := by
  intro bri steps nonzero
  have pos := toNat_pos_of_ne_zero nonzero
  have index {k : ℕ} (inRange : k ≤ 2 * steps.toNat) := pulseIndex_eq_min inRange
  have dark {k : ℕ} (zero : pulseIndex steps k = 0) : pulseBrightness bri steps k = 0 := by
    rw [pulseBrightness, zero, Nat.zero_mul]
    exact rhu_mul_left pos 0
  refine ⟨fun k inRange => ?symmetric, dark ?start, ?peak, dark ?stop, fun k before => pulseBrightness_mono ?rising,
    fun k after inRange => pulseBrightness_mono ?falling⟩
  case symmetric => rw [pulseBrightness, pulseBrightness, index inRange, index (by omega)]; congr 2; omega
  case start => rw [index (by omega)]; omega
  case peak =>
    have top : pulseIndex steps steps.toNat = steps.toNat := by rw [index (by omega)]; omega
    rw [pulseBrightness, top]
    exact rhu_mul_left pos _
  case stop => rw [index le_rfl]; omega
  case rising => rw [index (by omega), index (by omega)]; omega
  case falling => rw [index (by omega), index (by omega)]; omega

/-! ### SMOOTH -/

/-- Settles O29: the document's interpolation over the common denominator `S`. -/
theorem smoothStepColours : Obligations.SmoothStepColours := by
  intro r g b bri bri2 steps dur cc k nonzero inRange
  have pos := toNat_pos_of_ne_zero nonzero
  have rational : ((min bri.toNat 100 : ℕ) + (k : ℚ) / steps.toNat *
        (((min bri2.toNat 100 : ℕ) : ℚ) - (min bri.toNat 100 : ℕ))) =
      (min bri.toNat 100 * (steps.toNat - k) + min bri2.toNat 100 * k : ℕ) / steps.toNat := by
    have : (steps.toNat : ℚ) ≠ 0 := Nat.cast_ne_zero.mpr pos.ne'
    rw [Nat.cast_add, Nat.cast_mul, Nat.cast_mul, Nat.cast_sub inRange]
    field_simp
    ring
  rw [stepColour, seqSteps, smoothSteps, if_pos (by omega), rational, roundHalfUp_natCast_div _ pos]
  rfl

/-- R201: a step moves the dividend by the difference of the two brightnesses. -/
theorem smoothDividend_succ (x y : ℕ) {S k : ℕ} (before : k < S) :
    x * (S - (k + 1)) + y * (k + 1) + x = x * (S - k) + y * k + y := by
  obtain ⟨m, rfl⟩ := Nat.exists_eq_add_of_lt before
  have left : k + m + 1 - (k + 1) = m := by omega
  have right : k + m + 1 - k = m + 1 := by omega
  rw [left, right]
  ring

/-- Settles O30: at the ends the dividend is `S` times a brightness; in between it moves one way. -/
theorem smoothRampEndpoints : Obligations.SmoothRampEndpoints := by
  intro bri bri2 steps nonzero
  have pos := toNat_pos_of_ne_zero nonzero
  refine ⟨?first, ?last, fun k before => ?between⟩
  case first =>
    rw [smoothBrightness, Nat.sub_zero, Nat.mul_zero, Nat.add_zero, Nat.mul_comm]
    exact rhu_mul_left pos _
  case last =>
    rw [smoothBrightness, Nat.sub_self, Nat.mul_zero, Nat.zero_add, Nat.mul_comm]
    exact rhu_mul_left pos _
  case between =>
    have moved := smoothDividend_succ (clampb bri) (clampb bri2) before
    constructor
    · intro rising
      have rising' : clampb bri ≤ clampb bri2 := rising
      exact rhu_mono (by omega) _
    · intro falling
      have falling' : clampb bri2 ≤ clampb bri := falling
      exact rhu_mono (by omega) _

/-! ### FLASH and RUNNING -/

/-- Settles O31: the steps of FLASH by parity. -/
theorem flashStepColours : Obligations.FlashStepColours := by
  intro r g b bri count onOff cc k
  refine ⟨fun less => ⟨?even, ?odd⟩, fun past => if_neg (Nat.not_lt.mpr past)⟩
  case even =>
    have inRange : 2 * k < 2 * count.toNat := by omega
    have even : 2 * k % 2 = 0 := by omega
    rw [stepColour, seqSteps, flashSteps, if_pos inRange, seqColour, flashColour, if_pos even]
  case odd =>
    have inRange : 2 * k + 1 < 2 * count.toNat := by omega
    have odd : ¬ (2 * k + 1) % 2 = 0 := by omega
    rw [stepColour, seqSteps, flashSteps, if_pos inRange, seqColour, flashColour, if_neg odd]
    rfl

/-- Settles O33: the 23 colours, each evaluated; entry 7 of a cycle and step 22 are CC itself. -/
theorem runningStepColours : Obligations.RunningStepColours :=
  fun _ _ _ _ _ _ _ => rfl

end Sys2Proof.Machine
end

section
/-! PROOF. START's operations (R172, R173, R244): the exact state that each of them leaves. -/

namespace Sys2Proof.Machine

/-! ### The functions -/

/-- Settles O8: ENCODE writes the encoder's frame, whose bytes are these. -/
theorem encodeWritesFrameOnly : Obligations.EncodeWritesFrameOnly := exec_encode

/-- Settles O9: the clamped brightness is `clampb`. -/
theorem compensateWritesResOnly : Obligations.CompensateWritesResOnly := fun _ _ _ _ _ => rfl

/-! ### The sequences -/

/-- R206: the longest sequence is PULSE's of 65535 steps up. -/
theorem seqSteps_le (i : Instr) : seqSteps i ≤ 131071 := by
  cases i with
  | encode | compensate | hsl2rgb | setcolor | running => exact Nat.le_of_ble_eq_true rfl
  | pulse _ _ _ _ steps | smooth _ _ _ _ _ steps | flash _ _ _ _ steps | rainbow _ steps =>
    have := steps.isLt
    simp only [seqSteps, pulseSteps, smoothSteps, flashSteps, rainbowSteps]
    omega

/-- R25: NSTEPS holds the number of steps exactly. -/
theorem toNat_ofNat_seqSteps (i : Instr) : (BitVec.ofNat 32 (seqSteps i)).toNat = seqSteps i := by
  have := seqSteps_le i
  rw [BitVec.toNat_ofNat]
  omega

theorem ofNat_seqSteps_eq_zero_iff (i : Instr) : BitVec.ofNat 32 (seqSteps i) = 0 ↔ seqSteps i = 0 := by
  rw [← BitVec.toNat_inj, toNat_ofNat_seqSteps]
  rfl

/-- R173: a legal sequence of some step begins with its step 0, from the registers that its generator gives. -/
theorem exec_of_steps {i : Instr} (legal : i.wellFormed = true) (sequence : i.isSequence = true) {s : State} {n d : Word32}
    {cc c : Color} (steps : BitVec.ofNat 32 (seqSteps i) = n) (nonzero : seqSteps i ≠ 0)
    (delay : BitVec.ofNat 32 (seqDelay i) = d) (latch : (seqLatch i).getD s.cc = cc)
    (colour : seqColour cc 0 i = some c) :
    exec i s = .next { s with
      cc := cc, nsteps := n, delay := d, stepIndex := 0, seqState := .running, phase := .att1,
      res := c, frame := encodeFrame c } := by
  subst steps delay latch
  rw [exec_of_sequence legal sequence, launch_of_steps (mt (ofNat_seqSteps_eq_zero_iff i).mp nonzero), colour]
  rfl

/-- R173: a legal sequence of no step is over at once. -/
theorem exec_of_no_step {i : Instr} (legal : i.wellFormed = true) (sequence : i.isSequence = true) {s : State} {d : Word32}
    {cc : Color} (steps : seqSteps i = 0) (delay : BitVec.ofNat 32 (seqDelay i) = d) (latch : (seqLatch i).getD s.cc = cc) :
    exec i s = .next { s with
      cc := cc, nsteps := 0, delay := d, stepIndex := 0, seqState := .complete, phase := .none } := by
  subst delay latch
  rw [exec_of_sequence legal sequence, launch_of_no_step ((ofNat_seqSteps_eq_zero_iff i).mpr steps)]
  rfl

/-- R97 check 3. -/
theorem stepsOk_of_ne_zero {steps : Half} (nonzero : steps ≠ 0) : stepsOk steps = true := bne_iff_ne.mpr nonzero

/-- Settles O20: one step of delay 0, and no latch. -/
theorem setcolorLaunches : Obligations.SetcolorLaunches :=
  fun _ _ _ _ _ => exec_of_steps rfl rfl rfl one_ne_zero rfl rfl rfl

/-- Settles O21: the ramp starts at brightness 0, whose colour is black. -/
theorem pulseLaunches : Obligations.PulseLaunches := by
  intro r g b bri steps dur s nonzero
  have dark : pulseBrightness bri steps 0 = 0 := (pulseRampSymmetric bri steps nonzero).2.1
  have black : pulseColour ⟨r, g, b⟩ bri steps 0 = Color.black := by rw [pulseColour, dark]; rfl
  exact exec_of_steps (i := .pulse r g b bri steps dur) (stepsOk_of_ne_zero nonzero) rfl rfl (Nat.succ_ne_zero _) rfl rfl
    (congrArg some black)

/-- Settles O22: the ramp starts at the from brightness. -/
theorem smoothLaunches : Obligations.SmoothLaunches := by
  intro r g b bri bri2 steps dur s nonzero c
  have start : smoothBrightness bri bri2 steps 0 = min bri.toNat 100 := (smoothRampEndpoints bri bri2 steps nonzero).1
  have first : smoothColour ⟨r, g, b⟩ bri bri2 steps 0 = c := by rw [smoothColour, start]
  exact exec_of_steps (i := .smooth r g b bri bri2 steps dur) (stepsOk_of_ne_zero nonzero) rfl rfl (Nat.succ_ne_zero _) rfl
    rfl (congrArg some first)

/-- Settles O23: FLASH has no operand check; its count decides whether there is a step. -/
theorem flashLaunches : Obligations.FlashLaunches := by
  intro r g b bri count onOff s c
  have delay : BitVec.ofNat 32 onOff.toNat = onOff := by rw [BitVec.ofNat_toNat, BitVec.setWidth_eq]
  refine ⟨fun nonzero => ?some, fun zero => ?none⟩
  case some =>
    have steps : 2 * count.toNat ≠ 0 := by have := toNat_pos_of_ne_zero nonzero; omega
    exact exec_of_steps (i := .flash r g b bri count onOff) rfl rfl rfl steps delay rfl rfl
  case none =>
    subst zero
    exact exec_of_no_step (i := .flash r g b bri 0 onOff) rfl rfl rfl delay rfl

/-- Settles O24: the first hue is red. -/
theorem rainbowLaunches : Obligations.RainbowLaunches := by
  intro bri steps dur s nonzero c
  have first : rainbowColour bri steps 0 = c := rainbowColour_zero bri nonzero
  have onlyRed : c = ⟨c.r, 0, 0⟩ := by
    show compensate _ _ = Color.mk (compensate _ _).r 0 0
    unfold compensate
    split_ifs <;> rfl
  have frame : encodeFrame c = #v[0x7E, 0x07, 0x05, 0x03, c.r, 0, 0, 0x10, 0xEF] := by rw [onlyRed]; rfl
  rw [← frame]
  exact exec_of_steps (i := .rainbow bri steps dur) (stepsOk_of_ne_zero nonzero) rfl (BitVec.ofNat_toNat ..)
    (toNat_pos_of_ne_zero nonzero).ne' rfl rfl (congrArg some first)

/-- Settles O25: CC is latched first, and the palette's first entry is its red lane. -/
theorem runningLaunches : Obligations.RunningLaunches := by
  intro r g b bri steps dur s nonzero c
  exact exec_of_steps (i := .running r g b bri steps dur) (stepsOk_of_ne_zero nonzero) rfl rfl (Nat.succ_ne_zero _) rfl rfl
    rfl

/-- Settles O26: each of the four checks its step count and FLASH does not. -/
theorem zeroStepsFaults : Obligations.ZeroStepsFaults := by
  intro r g b bri bri2 dur s
  constructor
  · rintro i (rfl | rfl | rfl | rfl) <;> rfl
  · exact ⟨_, exec_of_no_step (i := .flash r g b bri 0 dur) rfl rfl rfl rfl rfl, rfl, rfl, rfl⟩

end Sys2Proof.Machine
end

section
/-! PROOF. The host port (R63, R64, R171): what the block does with each access. -/

namespace Sys2Proof.Machine

theorem deliver_memWrite {a : ℕ} {vs : List Byte} (inSpace : 1 ≤ vs.length ∧ vs.length ≤ 16 ∧ a + vs.length ≤ 64)
    (s : State) : deliver (.memWrite a vs) s = writeBytes a vs s := by
  rw [deliver, hostWrite, if_pos (accessInSpace_iff.mpr inSpace)]

theorem writeBytes_singleton (a : ℕ) (v : Byte) (s : State) : writeBytes a [v] s = writeByte a v s := by
  obtain ⟨t, written⟩ := writeByte_next a v s
  simp only [writeBytes, written]

/-- A write of one byte that is the next input. -/
theorem step_writeByte {s : State} {a : ℕ} {v : Byte} {rest : List Input} (pending : s.inputs = .memWrite a [v] :: rest)
    (inSpace : a < 64) : step s = writeByte a v { s with inputs := rest } := by
  rw [step_eq_deliver pending, deliver_memWrite ⟨le_rfl, Nat.le_of_ble_eq_true rfl, inSpace⟩, writeBytes_singleton]

/-! ### START (R171) -/

theorem writeByte_start {v : Byte} (go : v.getLsbD 0 = true) {s : State} (released : s.rst = false) :
    writeByte 0x10 v s = start s := by
  rw [writeByte, if_neg (by simp [released]), if_neg (by decide), if_pos rfl, writeCtrl, if_pos go]

theorem start_of_ok {s : State} (idle : s.seqState = .idle) {i : Instr} (decoded : decode s.desc = .ok i) :
    start s = exec i { s with latch := s.desc } := by
  simp only [start, if_pos idle, decoded]

theorem start_of_error {s : State} (idle : s.seqState = .idle) {c : CommandFault} (rejected : decode s.desc = .error c) :
    start s = .next (raiseFault c { s with latch := s.desc }) := by
  simp only [start, if_pos idle, rejected]

theorem start_of_not_idle {s : State} (busy : s.seqState ≠ .idle) : start s = .next { s with rej := true } := by
  rw [start, if_neg busy]

/-- Settles O5: the byte reaches `start`, which decodes the latch it has just taken from DESC. -/
theorem startRunsDecodedInstruction : Obligations.StartRunsDecodedInstruction := by
  intro s v rest i pending go released idle decoded
  rw [step_writeByte pending (by decide), writeByte_start (s := { s with inputs := rest }) go released,
    start_of_ok (s := { s with inputs := rest }) idle decoded]

/-- Settles O6: the byte reaches `start`, and the decoder's rejection is raised as the command fault. -/
theorem startTakesDecodeFault : Obligations.StartTakesDecodeFault := by
  intro s v rest c pending go released idle rejected
  rw [step_writeByte pending (by decide), writeByte_start (s := { s with inputs := rest }) go released,
    start_of_error (s := { s with inputs := rest }) idle rejected]
  rfl

/-- Settles O7: the byte reaches `start`, which outside Idle only sets REJ. -/
theorem startRefusedOutsideIdle : Obligations.StartRefusedOutsideIdle := by
  intro s v rest pending go released busy
  rw [step_writeByte pending (by decide), writeByte_start (s := { s with inputs := rest }) go released,
    start_of_not_idle (s := { s with inputs := rest }) busy]

/-! ### Other writes (R64) -/

theorem writeByte_desc {k : ℕ} (inDesc : k < 16) (v : Byte) {s : State} (released : s.rst = false) :
    writeByte k v s = .next (writeDesc k v s) := by
  rw [writeByte, if_neg (by simp [released]), if_pos inDesc]

theorem writeByte_ignored {a : ℕ} {v : Byte} (notDesc : 16 ≤ a) (noStart : a = 16 → v.getLsbD 0 = false) (s : State) :
    writeByte a v s = .next s := by
  rw [writeByte, if_neg notDesc.not_gt]
  split_ifs with held ctrl
  · rfl
  · rw [writeCtrl, noStart ctrl]
    rfl
  · rfl

/-- Settles O40: both cases of `writeDesc`. -/
theorem descWriteOnlyInIdle : Obligations.DescWriteOnlyInIdle := by
  intro s k v rest inDesc pending released
  rw [step_writeByte pending (by omega), writeByte_desc (s := { s with inputs := rest }) inDesc v released]
  refine ⟨fun idle => ?idle, fun busy => ?busy⟩
  case idle =>
    have stored : s.desc.setIfInBounds k v = s.desc.set k v :=
      Vector.ext fun j hj => by rw [Vector.getElem_setIfInBounds, Vector.getElem_set]
    rw [writeDesc, if_pos idle, stored]
  case busy => rw [writeDesc, if_neg busy]

/-- Settles O41: the byte falls past DESC and is no START. -/
theorem otherWritesIgnored : Obligations.OtherWritesIgnored := by
  intro s a v rest notDesc inSpace noStart pending
  rw [step_writeByte pending inSpace, writeByte_ignored notDesc noStart]

end Sys2Proof.Machine
end

section
/-! PROOF. What the block refuses (R63, R281), and what it shows while it waits (R280, R66). -/

namespace Sys2Proof.Machine

/-- R281: in Running an answer needs an attempt in its phase. -/
theorem deliver_ans_refused {s : State} (none : s.seqState ≠ .running ∨ (s.phase ≠ .att1 ∧ s.phase ≠ .att2)) (r : Answer) :
    deliver (.ans r) s = .refused .noAttemptOutstanding := by
  by_cases running : s.seqState = .running
  · obtain ⟨notFirst, notSecond⟩ := none.resolve_left (not_not_intro running)
    rw [deliver, transportAnswer, if_pos running]
    cases phase : s.phase with
    | att1 => exact absurd phase notFirst
    | att2 => exact absurd phase notSecond
    | none | wait => rfl
  · exact deliver_ans_of_not_running running r

/-- R176: in Running the end of a wait needs a wait. -/
theorem deliver_tick_refused {s : State} (none : s.seqState ≠ .running ∨ s.phase ≠ .wait) :
    deliver .tick s = .refused .noWaitRunning := by
  by_cases running : s.seqState = .running
  · have notWaiting := none.resolve_left (not_not_intro running)
    rw [deliver, waitOver, if_pos running]
    cases phase : s.phase with
    | wait => exact absurd phase notWaiting
    | none | att1 | att2 => rfl
  · rw [deliver, waitOver, if_neg running]

/-- Settles O37: each of the three inputs is refused where nothing awaits it. -/
theorem uninvitedInputsRefused : Obligations.UninvitedInputsRefused := by
  intro s rest
  refine ⟨fun r pending none => ?answer, fun pending none => ?tick, fun a pending notOwed => ?byte⟩
  case answer => rw [step_eq_deliver pending, deliver_ans_refused (s := { s with inputs := rest }) none]
  case tick => rw [step_eq_deliver pending, deliver_tick_refused (s := { s with inputs := rest }) none]
  case byte => rw [step_eq_deliver pending, deliver, takeByte, if_neg notOwed]

/-- Settles O44: such an access is not one that `accessInSpace` lets through. -/
theorem accessOutsideSpaceRefused : Obligations.AccessOutsideSpaceRefused := by
  intro s a n vs rest outside
  have notInSpace : ¬ accessInSpace a n = true := by rw [accessInSpace_iff]; omega
  refine ⟨fun pending => ?read, fun pending length => ?write⟩
  case read => rw [step_eq_deliver pending, deliver, hostRead, if_neg notInSpace]
  case write => rw [step_eq_deliver pending, deliver, hostWrite, length, if_neg notInSpace]

/-- Settles O38: each port is a function of PHASE, which is not NONE exactly in Running. -/
theorem outputsShowWhatIsAwaited : Obligations.OutputsShowWhatIsAwaited := by
  refine ⟨fun s nothing => by rw [step, nothing], fun s phased => ⟨decide_eq_true_iff, decide_eq_true_iff, ?_, ?_⟩⟩
  · intro f ack
    unfold transportPort
    cases phase : s.phase with
    | none | wait => simp
    | att1 | att2 =>
      have running : s.seqState = .running := phased.mp (by simp [phase])
      simp [running, eq_comm]
  · intro ms
    unfold delayPort
    cases phase : s.phase with
    | none | att1 | att2 => simp
    | wait =>
      have running : s.seqState = .running := phased.mp (by simp [phase])
      simp [running, eq_comm]

end Sys2Proof.Machine
end

section
/-! PROOF. The reset input (R270). -/

namespace Sys2Proof.Machine

/-- R270: while `rst` is asserted a write reaches nothing. -/
theorem writeBytes_of_rst {vs : List Byte} {a : ℕ} {s t : State} (held : s.rst = true)
    (written : writeBytes a vs s = .next t) : t = s := by
  refine writeBytes_rel (R := fun s t => s.rst = true → t = s) (fun _ _ => rfl) ?compose ?byte vs a s t written held
  case compose =>
    intro s t u first second held
    have same := first held
    exact (second (same ▸ held)).trans same
  case byte =>
    intro a v s t written held
    rw [writeByte, if_pos held] at written
    exact (Host.Outcome.next.inj written).symm

/-- Settles O47: the level of the input alone decides, and while it is asserted `writeBytes_of_rst` holds. -/
theorem resetFromAnyState : Obligations.ResetFromAnyState := by
  intro s rest
  refine ⟨fun pending => ?assert, fun held pending => ?release, fun a vs t held pending stepped => ?write⟩
  case assert => rw [step_eq_deliver pending]; rfl
  case release =>
    rw [step_eq_deliver pending, deliver, setReset, if_pos (by simp [held])]
    rfl
  case write =>
    rw [step_eq_deliver pending, deliver, hostWrite] at stepped
    split at stepped
    · exact writeBytes_of_rst (s := { s with inputs := rest }) held stepped
    · cases stepped

end Sys2Proof.Machine
end

section
/-! PROOF. Accesses of several bytes (R63, R65): a write is the writes of its parts; a read takes its bytes one at a time;
and the register map (R61). -/

namespace Sys2Proof.Safety

open Sys2Proof.Machine

/-- Settles O42: the first part of the bytes reaches a next state, and the second goes on from there. -/
theorem wideWriteIsByteWrites : Obligations.WideWriteIsByteWrites := by
  intro s a xs ys xsome ysome size inSpace
  have xlength := List.length_pos_iff.mpr xsome
  have ylength := List.length_pos_iff.mpr ysome
  obtain ⟨t, written⟩ := writeBytes_next xs a s
  have first : deliver (.memWrite a xs) s = .next t := by
    rw [deliver_memWrite (by omega), written]
  have whole : deliver (.memWrite a (xs ++ ys)) s = deliver (.memWrite (a + xs.length) ys) t := by
    rw [deliver_memWrite (by rw [List.length_append]; omega), deliver_memWrite (by omega), writeBytes_append xs ys a s t written]
  rw [feed_cons_of_next first, feed_singleton, feed_singleton, whole]

/-! ### Reads -/

theorem deliver_memRead {a n : ℕ} (inSpace : 1 ≤ n ∧ n ≤ 16 ∧ a + n ≤ 64) (s : State) :
    deliver (.memRead a n) s = .next { s with hostData := [], reading := List.range' a n } := by
  rw [deliver, hostRead, if_pos (accessInSpace_iff.mpr inSpace)]

theorem deliver_readByte {a : ℕ} {s : State} (owed : a ∈ s.reading) :
    deliver (.readByte a) s = .next { s with
      hostData := s.hostData ++ [(a, regByte a s)], reading := s.reading.erase a } := by
  rw [deliver, takeByte, if_pos owed]

/-- R65: no register depends on what the host has been given or is owed. -/
theorem regByte_of_registers (a : ℕ) (d : List (ℕ × Byte)) (as : List ℕ) (s : State) :
    regByte a { s with hostData := d, reading := as } = regByte a s := rfl

/-- The bytes owed, taken in their order with nothing between them, are those of one state. -/
theorem feed_readBytes (as : List ℕ) (s : State) (owed : s.reading = as) :
    feed (as.map .readByte) s = .next { s with
      inputs := [], hostData := s.hostData ++ as.map (fun k => (k, regByte k s)), reading := [] } := by
  induction as generalizing s with
  | nil => rw [List.map_nil, List.map_nil, List.append_nil, feed_nil, ← owed]; rfl
  | cons a as ih =>
    have taken := deliver_readByte (a := a) (s := s) (by rw [owed]; exact List.mem_cons_self)
    rw [owed, List.erase_cons_head] at taken
    rw [List.map_cons, feed_cons_of_next taken, ih _ rfl]
    simp only [List.append_assoc, List.map_cons, List.cons_append, List.nil_append, regByte_of_registers]

/-- R63: a whole read with nothing between its bytes. -/
theorem feed_readInputs {a n : ℕ} (inSpace : 1 ≤ n ∧ n ≤ 16 ∧ a + n ≤ 64) (s : State) :
    feed (readInputs a n) s = .next { s with
      inputs := [], hostData := (List.range' a n).map (fun k => (k, regByte k s)), reading := [] } := by
  rw [readInputs, feed_cons_of_next (deliver_memRead inSpace s)]
  exact feed_readBytes (List.range' a n) _ rfl

/-! ### The register map (R61) -/

theorem toNat_byteAt {w : ℕ} (x : BitVec w) (i : ℕ) : (byteAt x i).toNat = x.toNat / 2 ^ (8 * i) % 256 := by
  rw [byteAt, BitVec.extractLsb'_toNat, Nat.shiftRight_eq_div_pow]

/-- R62 (b): a counter is little-endian. -/
theorem toNat_bytes (x : Word32) :
    (byteAt x 0).toNat + 256 * (byteAt x 1).toNat + 65536 * (byteAt x 2).toNat + 16777216 * (byteAt x 3).toNat = x.toNat := by
  have := x.isLt
  simp only [toNat_byteAt]
  omega

theorem toNat_statusByte (s : State) :
    (statusByte s).toNat = (match s.seqState with | .idle => 0 | .running => 1 | .complete => 2) +
      4 * s.werr.toNat + 8 * s.fault.toNat + 16 * s.rej.toNat := by
  unfold statusByte
  cases s.seqState <;> cases s.werr <;> cases s.fault <;> cases s.rej <;> rfl

/-- Settles O43: a whole read is `feed_readInputs`; the map is read off `regByte`, a counter's bytes joined by
`toNat_bytes`. -/
theorem hostReadsRegisterMap : Obligations.HostReadsRegisterMap := by
  intro s
  refine ⟨fun a n rest low high inSpace pending => ?begin, fun a rest owed pending => ?take,
    fun a n low high inSpace => feed_readInputs ⟨low, high, inSpace⟩ s, fun k => dif_pos k.isLt, rfl, toNat_statusByte s,
    ?cause, ?phase, ?counters, ⟨rfl, rfl, rfl, rfl⟩, ?frame, ⟨rfl, rfl, rfl⟩, ?reserved⟩
  case begin => rw [step_eq_deliver pending, deliver_memRead ⟨low, high, inSpace⟩]
  case take => rw [step_eq_deliver pending, deliver_readByte (s := { s with inputs := rest }) owed]; rfl
  case cause =>
    show (causeByte s.cause).toNat = _
    cases s.cause with
    | none => rfl
    | some c => cases c <;> rfl
  case phase =>
    show (phaseByte s).toNat = _
    unfold phaseByte
    cases s.phase <;> rfl
  case counters =>
    intro a x counter
    simp only [List.mem_cons, Prod.mk.injEq, List.not_mem_nil, or_false] at counter
    obtain ⟨rfl, rfl⟩ | ⟨rfl, rfl⟩ | ⟨rfl, rfl⟩ | ⟨rfl, rfl⟩ | ⟨rfl, rfl⟩ := counter <;> exact toNat_bytes _
  case frame => intro k; fin_cases k <;> rfl
  case reserved =>
    intro a low high
    interval_cases a <;> rfl

/-! ### A descriptor written and read back -/

/-- The bytes `vs` in DESC from `a` on, those past its end dropped. -/
def storeBytes (d : Descriptor) : ℕ → List Byte → Descriptor
  | _, [] => d
  | a, v :: vs => storeBytes (d.setIfInBounds a v) (a + 1) vs

theorem getElem_storeBytes (vs : List Byte) (d : Descriptor) (a : ℕ) {k : ℕ} (inDesc : k < 16) :
    (storeBytes d a vs)[k] = if a ≤ k then vs[k - a]?.getD d[k] else d[k] := by
  induction vs generalizing d a with
  | nil => simp [storeBytes]
  | cons v vs ih =>
    rw [storeBytes, ih, Vector.getElem_setIfInBounds]
    obtain before | rfl | after := lt_trichotomy k a
    · rw [if_neg (by omega), if_neg (by omega), if_neg (by omega)]
    · simp
    · obtain ⟨m, rfl⟩ := Nat.exists_eq_add_of_lt after
      have tail : a + m + 1 - a = (a + m + 1 - (a + 1)) + 1 := by omega
      rw [if_pos (by omega), if_neg (by omega), if_pos (by omega), tail, List.getElem?_cons_succ]

theorem storeBytes_toList (d e : Descriptor) : storeBytes d 0 e.toList = e := by
  refine Vector.ext fun k inDesc => ?_
  rw [getElem_storeBytes _ _ _ inDesc, if_pos (Nat.zero_le k), Nat.sub_zero]
  simp [inDesc]

/-- R64 (a): in Idle a write inside DESC is stored. -/
theorem writeBytes_desc (vs : List Byte) (a : ℕ) {s : State} (inDesc : a + vs.length ≤ 16) (idle : s.seqState = .idle)
    (released : s.rst = false) : writeBytes a vs s = .next { s with desc := storeBytes s.desc a vs } := by
  induction vs generalizing a s with
  | nil => rfl
  | cons v vs ih =>
    rw [List.length_cons] at inDesc
    have written : writeByte a v s = .next { s with desc := s.desc.setIfInBounds a v } := by
      rw [writeByte_desc (by omega) v released, writeDesc, if_pos idle]
    simp only [writeBytes, written]
    exact ih (a + 1) (by omega) idle released

/-- Settles O45: the sixteen bytes replace DESC, whose bytes the read then finds. -/
theorem descriptorReadsBack : Obligations.DescriptorReadsBack := by
  intro s d idle released
  have length : d.toList.length = 16 := d.length_toList
  have written : deliver (.memWrite 0 d.toList) s = .next { s with desc := d } := by
    rw [deliver_memWrite (by omega), writeBytes_desc _ _ (by omega) idle released, storeBytes_toList]
  have bytes : (List.range' 0 16).map (fun k => (k, regByte k { s with desc := d })) = (List.range 16).zip d.toList := by
    refine List.ext_getElem (by simp) fun k hk _ => ?_
    have inDesc : k < 16 := by simpa using hk
    simp [regByte, inDesc]
  rw [feed_cons_of_next written, feed_readInputs (by decide), bytes]

end Sys2Proof.Safety
end

section
/-! PROOF. What a step cannot do (R26, R28, R183): outside Idle a host write reaches REJ alone, and without a reset STATE moves
one way, no flag is cleared, and STEP and TRACE only go on. -/

namespace Sys2Proof.Machine

/-- A write that reached REJ and nothing else. -/
structure OnlyRej (s t : State) : Prop where
  rest : t = { s with rej := t.rej }
  sticks : s.rej = true → t.rej = true

theorem OnlyRej.refl (s : State) : OnlyRej s s := ⟨rfl, id⟩

theorem OnlyRej.trans {s t u : State} (first : OnlyRej s t) (second : OnlyRej t u) : OnlyRej s u where
  rest := by rw [second.rest, first.rest]
  sticks := fun rejected => second.sticks (first.sticks rejected)

theorem OnlyRej.seqState {s t : State} (only : OnlyRej s t) : t.seqState = s.seqState := by rw [only.rest]

/-- R64 (b), R171: outside Idle a write of any size reaches REJ alone. -/
theorem writeBytes_of_not_idle {vs : List Byte} {a : ℕ} {s t : State} (busy : s.seqState ≠ .idle)
    (written : writeBytes a vs s = .next t) : OnlyRej s t := by
  refine writeBytes_rel (R := fun s t => s.seqState ≠ .idle → OnlyRej s t) (fun s _ => .refl s) ?compose ?byte
    vs a s t written busy
  case compose =>
    intro s t u first second busy
    have only := first busy
    exact only.trans (second (only.seqState ▸ busy))
  case byte =>
    intro a v s t written busy
    obtain rfl | ⟨-, -, rfl⟩ | ⟨-, idle, -⟩ := writeByte_effects written
    · exact .refl _
    · exact ⟨rfl, fun _ => rfl⟩
    · exact absurd idle busy

/-- Settles O51: Running is not Idle, so the write reaches REJ alone. -/
theorem hostCannotDisturbRun : Obligations.HostCannotDisturbRun := by
  intro s t a vs rest running _ pending stepped
  rw [step_eq_deliver pending, deliver, hostWrite] at stepped
  split at stepped
  · have busy : s.seqState ≠ .idle := by simp [running]
    exact (writeBytes_of_not_idle (s := { s with inputs := rest }) busy stepped).rest
  · cases stepped

/-- Settles O50: nothing but a host access is accepted in Complete, and a write reaches REJ alone. -/
theorem completeIsTerminal : Obligations.CompleteIsTerminal := by
  intro s t noReset complete stepped
  have notRunning : s.seqState ≠ .running := by simp [complete]
  obtain ⟨-, rfl⟩ | ⟨a, vs, rest, -, -, written⟩ | ⟨-, rest, d, as, -, -, rfl⟩ | ⟨-, -, -, running, -⟩ |
    ⟨-, -, -, running, -⟩ | ⟨-, -, running, -⟩ | ⟨b, rest, pending, -⟩ := step_cases stepped
  · exact ⟨rfl, id⟩
  · have busy : s.seqState ≠ .idle := by simp [complete]
    have only := writeBytes_of_not_idle (s := { s with inputs := rest }) busy written
    refine ⟨?_, only.sticks⟩
    rw [only.rest]
  · exact ⟨rfl, id⟩
  · exact absurd running notRunning
  · exact absurd running notRunning
  · exact absurd running notRunning
  · exact absurd pending (noReset b rest)

/-- Settles O48: a write in Idle may lead anywhere and one outside Idle leaves STATE; an answer leaves it in Running, and a wait
that is over leaves it there or in Complete. -/
theorem stateTransitions : Obligations.StateTransitions := by
  intro s t noReset stepped
  obtain ⟨-, rfl⟩ | ⟨a, vs, rest, -, -, written⟩ | ⟨-, rest, d, as, -, -, rfl⟩ | ⟨r, rest, -, -, -, rfl⟩ |
    ⟨r, rest, -, -, -, rfl⟩ | ⟨rest, -, running, -, advanced⟩ | ⟨b, rest, pending, -⟩ := step_cases stepped
  · exact .inl rfl
  · by_cases idle : s.seqState = .idle
    · rw [idle]
      cases t.seqState <;> simp
    · exact .inl (writeBytes_of_not_idle (s := { s with inputs := rest }) idle written).seqState
  · exact .inl rfl
  · exact .inl (answerFirst_seqState _ _)
  · exact .inl (answerSecond_seqState _ _)
  · obtain ⟨-, rfl⟩ | ⟨-, i, c, -, -, rfl⟩ := advance_cases advanced
    · exact .inr (.inr (.inr ⟨running, rfl⟩))
    · exact .inl rfl
  · exact absurd pending (noReset b rest)

/-! ### Flags, STEP and TRACE -/

/-- What no write undoes: the flags, having left Idle, and the trace; and STEP is only restarted, on leaving Idle. -/
structure Onward (s t : State) : Prop where
  werr : s.werr = true → t.werr = true
  fault : s.fault = true → t.fault = true
  rej : s.rej = true → t.rej = true
  idle : t.seqState = .idle → s.seqState = .idle
  stepIndex : t.stepIndex = s.stepIndex ∨ (s.seqState = .idle ∧ t.seqState ≠ .idle ∧ t.stepIndex = 0)
  trace : s.trace <+: t.trace

theorem Onward.refl (s : State) : Onward s s := ⟨id, id, id, id, .inl rfl, List.prefix_rfl⟩

theorem Onward.trans {s t u : State} (first : Onward s t) (second : Onward t u) : Onward s u where
  werr := fun set => second.werr (first.werr set)
  fault := fun set => second.fault (first.fault set)
  rej := fun set => second.rej (first.rej set)
  idle := fun idle => first.idle (second.idle idle)
  trace := first.trace.trans second.trace
  stepIndex := by
    obtain same | ⟨idle, left, zero⟩ := first.stepIndex
    · obtain same' | ⟨idle', left', zero'⟩ := second.stepIndex
      · exact .inl (same'.trans same)
      · exact .inr ⟨first.idle idle', left', zero'⟩
    · obtain same' | ⟨idle', -, -⟩ := second.stepIndex
      · exact .inr ⟨idle, fun back => left (second.idle back), same'.trans zero⟩
      · exact absurd idle' left

theorem launch_seqState_ne_idle (n d : ℕ) (c : Color) (s : State) : (launch n d c s).seqState ≠ .idle := by
  unfold launch
  dsimp only
  split <;> simp

theorem writeByte_onward {a : ℕ} {v : Byte} {s t : State} (written : writeByte a v s = .next t) : Onward s t := by
  obtain rfl | ⟨-, -, rfl⟩ | ⟨-, idle, effect⟩ := writeByte_effects written
  · exact .refl _
  · exact { Onward.refl s with rej := fun _ => rfl }
  · obtain ⟨d, rfl⟩ | ⟨c, rfl⟩ | ⟨f, rfl⟩ | ⟨c, rfl⟩ | ⟨i, -, -, -, rfl⟩ := effect
    · exact ⟨id, id, id, id, .inl rfl, List.prefix_rfl⟩
    · exact ⟨id, fun _ => rfl, id, fun _ => idle, .inl rfl, List.prefix_append _ _⟩
    · exact ⟨id, id, id, id, .inl rfl, List.prefix_rfl⟩
    · exact ⟨id, id, id, id, .inl rfl, List.prefix_rfl⟩
    · exact ⟨by simp, by simp, by simp, fun _ => idle, .inr ⟨idle, launch_seqState_ne_idle _ _ _ _, by simp⟩, by simp⟩

theorem writeBytes_onward {vs : List Byte} {a : ℕ} {s t : State} (written : writeBytes a vs s = .next t) : Onward s t :=
  writeBytes_rel .refl (fun _ _ _ => .trans) (fun _ _ _ _ => writeByte_onward) vs a s t written

/-- R246: WERR is set, not cleared. -/
theorem answerSecond_werr_of_set (r : Answer) {s : State} (set : s.werr = true) : (answerSecond r s).werr = true := by
  cases r with
  | ok => exact set
  | failed => rfl

theorem prefix_answerSecond_trace (r : Answer) (s : State) : s.trace <+: (answerSecond r s).trace := by
  cases r with
  | ok => exact List.prefix_append _ _
  | failed => rw [answerSecond_failed]; exact List.prefix_append _ _

/-- Settles O49: a write goes `Onward`; an answer leaves STEP; the end of a wait counts it up. -/
theorem flagsStickAndStepCounts : Obligations.FlagsStickAndStepCounts := by
  intro s t noReset stepped
  have appended {u : State} (grows : s.trace <+: u.trace) : ∃ es, u.trace = s.trace ++ es :=
    grows.imp fun _ => Eq.symm
  obtain ⟨-, rfl⟩ | ⟨a, vs, rest, -, -, written⟩ | ⟨-, rest, d, as, -, -, rfl⟩ | ⟨r, rest, -, -, -, rfl⟩ |
    ⟨r, rest, -, -, -, rfl⟩ | ⟨rest, -, running, waiting, advanced⟩ | ⟨b, rest, pending, -⟩ := step_cases stepped
  · exact ⟨id, id, id, .inl rfl, appended List.prefix_rfl⟩
  · have onward := writeBytes_onward written
    exact ⟨onward.werr, onward.fault, onward.rej, onward.stepIndex.imp_right .inl, appended onward.trace⟩
  · exact ⟨id, id, id, .inl rfl, appended List.prefix_rfl⟩
  · exact ⟨by simp, by simp, by simp, .inl (by simp), appended (by simp)⟩
  · exact ⟨answerSecond_werr_of_set r (s := { s with inputs := rest }), by simp, by simp, .inl (by simp),
      appended (prefix_answerSecond_trace r { s with inputs := rest })⟩
  · obtain ⟨-, rfl⟩ | ⟨-, i, c, -, -, rfl⟩ := advance_cases advanced
    · exact ⟨id, id, id, .inr (.inr ⟨running, waiting, rfl⟩), _, rfl⟩
    · exact ⟨id, id, id, .inr (.inr ⟨running, waiting, rfl⟩), _, rfl⟩
  · exact absurd pending (noReset b rest)

end Sys2Proof.Machine
end

section
/-! PROOF. Invariants, the common part: an invariant is kept by every step if each effect of a step keeps it. -/

namespace Sys2Proof.Safety

open Sys2Proof.Machine

/-- The state after the launch of a legal sequence operation prepared in DESC (R171, R173). -/
def launched (i : Instr) (s : State) : State :=
  launch (seqSteps i) (seqDelay i) ((seqColour ((seqLatch i).getD s.cc) 0 i).getD Color.black)
    (latchColour ((seqLatch i).getD s.cc) { s with latch := s.desc })

/-- Each effect that a step can have leads from a state with `P` to one with `Q`. -/
structure EachEffect (P Q : State → Prop) : Prop where
  ports : ∀ s is d as, P s → Q { s with inputs := is, hostData := d, reading := as }
  refuse : ∀ s, P s → s.rst = false → s.seqState ≠ .idle → Q { s with rej := true }
  desc : ∀ s d, P s → s.rst = false → s.seqState = .idle → Q { s with desc := d }
  fault : ∀ s c, P s → s.rst = false → s.seqState = .idle → Q (raiseFault c { s with latch := s.desc })
  frame : ∀ s f, P s → s.rst = false → s.seqState = .idle → Q { s with latch := s.desc, frame := f }
  res : ∀ s c, P s → s.rst = false → s.seqState = .idle → Q { s with latch := s.desc, res := c }
  launch : ∀ s i, P s → s.rst = false → s.seqState = .idle → decode s.desc = .ok i → i.wellFormed = true →
    i.isSequence = true → Q (launched i s)
  first : ∀ s r, P s → s.seqState = .running → s.phase = .att1 → Q (answerFirst r s)
  second : ∀ s r, P s → s.seqState = .running → s.phase = .att2 → Q (answerSecond r s)
  last : ∀ s, P s → s.seqState = .running → s.phase = .wait → s.stepIndex + 1 = s.nsteps →
    Q { endWait s with seqState := .complete, phase := .none }
  next : ∀ s i c, P s → s.seqState = .running → s.phase = .wait → decode s.latch = .ok i →
    stepColour i s.cc (s.stepIndex + 1).toNat = some c → Q (beginStep c (endWait s))
  reset : ∀ s b, Q (resetBlock b s)

section
variable {P P' Q Q' : State → Prop}

/-- Two conclusions of the same premise. -/
theorem EachEffect.and (left : EachEffect P Q) (right : EachEffect P Q') : EachEffect P fun s => Q s ∧ Q' s where
  ports s is d as h := ⟨left.ports s is d as h, right.ports s is d as h⟩
  refuse s h released busy := ⟨left.refuse s h released busy, right.refuse s h released busy⟩
  desc s d h released idle := ⟨left.desc s d h released idle, right.desc s d h released idle⟩
  fault s c h released idle := ⟨left.fault s c h released idle, right.fault s c h released idle⟩
  frame s f h released idle := ⟨left.frame s f h released idle, right.frame s f h released idle⟩
  res s c h released idle := ⟨left.res s c h released idle, right.res s c h released idle⟩
  launch s i h released idle decoded legal sequence :=
    ⟨left.launch s i h released idle decoded legal sequence, right.launch s i h released idle decoded legal sequence⟩
  first s r h running phase := ⟨left.first s r h running phase, right.first s r h running phase⟩
  second s r h running phase := ⟨left.second s r h running phase, right.second s r h running phase⟩
  last s h running phase atLast := ⟨left.last s h running phase atLast, right.last s h running phase atLast⟩
  next s i c h running phase decoded colour :=
    ⟨left.next s i c h running phase decoded colour, right.next s i c h running phase decoded colour⟩
  reset s b := ⟨left.reset s b, right.reset s b⟩

/-- A stronger premise. -/
theorem EachEffect.of_imp (each : EachEffect P Q) (imp : ∀ s, P' s → P s) : EachEffect P' Q where
  ports s is d as h := each.ports s is d as (imp s h)
  refuse s h := each.refuse s (imp s h)
  desc s d h := each.desc s d (imp s h)
  fault s c h := each.fault s c (imp s h)
  frame s f h := each.frame s f (imp s h)
  res s c h := each.res s c (imp s h)
  launch s i h := each.launch s i (imp s h)
  first s r h := each.first s r (imp s h)
  second s r h := each.second s r (imp s h)
  last s h := each.last s (imp s h)
  next s i c h := each.next s i c (imp s h)
  reset := each.reset

theorem EachEffect.writeByte (each : EachEffect P P) {a : ℕ} {v : Byte} {s t : State} (before : P s)
    (written : writeByte a v s = .next t) : P t := by
  obtain rfl | ⟨released, busy, rfl⟩ | ⟨released, idle, effect⟩ := writeByte_effects written
  · exact before
  · exact each.refuse s before released busy
  · obtain ⟨d, rfl⟩ | ⟨c, rfl⟩ | ⟨f, rfl⟩ | ⟨c, rfl⟩ | ⟨i, decoded, legal, sequence, rfl⟩ := effect
    · exact each.desc s d before released idle
    · exact each.fault s c before released idle
    · exact each.frame s f before released idle
    · exact each.res s c before released idle
    · exact each.launch s i before released idle decoded legal sequence

/-- What each effect keeps, every step keeps. -/
theorem EachEffect.step (each : EachEffect P P) {s t : State} (before : P s) (stepped : step s = .next t) : P t := by
  have delivered (rest : List Input) : P { s with inputs := rest } := each.ports s rest s.hostData s.reading before
  obtain ⟨-, rfl⟩ | ⟨a, vs, rest, -, -, written⟩ | ⟨-, rest, d, as, -, -, rfl⟩ | ⟨r, rest, -, running, phase, rfl⟩ |
    ⟨r, rest, -, running, phase, rfl⟩ | ⟨rest, -, running, phase, advanced⟩ | ⟨b, rest, -, rfl⟩ := step_cases stepped
  · exact before
  · exact writeBytes_keeps (fun _ _ _ _ h w => each.writeByte h w) (delivered rest) written
  · exact each.ports s rest d as before
  · exact each.first _ r (delivered rest) running phase
  · exact each.second _ r (delivered rest) running phase
  · obtain ⟨last, rfl⟩ | ⟨-, i, c, decoded, colour, rfl⟩ := advance_cases advanced
    · exact each.last _ (delivered rest) running phase last
    · exact each.next _ i c (delivered rest) running phase decoded colour
  · unfold setReset
    split
    · exact each.reset _ b
    · exact delivered rest

end

/-! ### The two ways a launch can go -/

/-- R173: the fields of a launch that depend on whether there is a step. -/
theorem launched_cases (i : Instr) (s : State) :
    (seqSteps i = 0 ∧ (launched i s).seqState = .complete ∧ (launched i s).phase = .none) ∨
      (0 < seqSteps i ∧ (launched i s).seqState = .running ∧ (launched i s).phase = .att1 ∧
        (launched i s).res = (seqColour ((seqLatch i).getD s.cc) 0 i).getD Color.black ∧
        (launched i s).frame = encodeFrame ((seqColour ((seqLatch i).getD s.cc) 0 i).getD Color.black)) := by
  by_cases none : seqSteps i = 0
  · rw [launched, launch_of_no_step ((ofNat_seqSteps_eq_zero_iff i).mpr none)]
    exact .inl ⟨none, rfl, rfl⟩
  · rw [launched, launch_of_steps (mt (ofNat_seqSteps_eq_zero_iff i).mp none)]
    exact .inr ⟨Nat.pos_of_ne_zero none, rfl, rfl, rfl, rfl⟩

@[simp] theorem launched_desc (i : Instr) (s : State) : (launched i s).desc = s.desc := launch_desc ..
@[simp] theorem launched_latch (i : Instr) (s : State) : (launched i s).latch = s.desc := launch_latch ..
@[simp] theorem launched_stepIndex (i : Instr) (s : State) : (launched i s).stepIndex = 0 := launch_stepIndex ..
@[simp] theorem launched_nsteps (i : Instr) (s : State) : (launched i s).nsteps = BitVec.ofNat 32 (seqSteps i) :=
  launch_nsteps ..
@[simp] theorem launched_delay (i : Instr) (s : State) : (launched i s).delay = BitVec.ofNat 32 (seqDelay i) :=
  launch_delay ..
@[simp] theorem launched_werr (i : Instr) (s : State) : (launched i s).werr = s.werr := launch_werr ..
@[simp] theorem launched_fault (i : Instr) (s : State) : (launched i s).fault = s.fault := launch_fault ..
@[simp] theorem launched_cause (i : Instr) (s : State) : (launched i s).cause = s.cause := launch_cause ..
@[simp] theorem launched_werrcnt (i : Instr) (s : State) : (launched i s).werrcnt = s.werrcnt := launch_werrcnt ..
@[simp] theorem launched_lasterr (i : Instr) (s : State) : (launched i s).lasterr = s.lasterr := launch_lasterr ..
@[simp] theorem launched_cc (i : Instr) (s : State) : (launched i s).cc = (seqLatch i).getD s.cc := launch_cc ..
@[simp] theorem launched_trace (i : Instr) (s : State) : (launched i s).trace = s.trace := launch_trace ..
@[simp] theorem launched_rst (i : Instr) (s : State) : (launched i s).rst = s.rst := launch_rst ..

/-- A legal sequence has a colour for every step. -/
theorem seqColour_isSome {i : Instr} (sequence : i.isSequence = true) (cc : Color) (k : ℕ) :
    ∃ c, seqColour cc k i = some c := by
  cases i with
  | encode | compensate | hsl2rgb => cases sequence
  | setcolor | pulse | smooth | flash | rainbow | running => exact ⟨_, rfl⟩

/-- R170: a sequence has a colour exactly for the steps that it has. -/
theorem stepColour_isSome {i : Instr} (sequence : i.isSequence = true) (cc : Color) {k : ℕ} (inRange : k < seqSteps i) :
    ∃ c, stepColour i cc k = some c := by
  rw [stepColour, if_pos inRange]
  exact seqColour_isSome sequence cc k

theorem lt_seqSteps_of_stepColour {i : Instr} {cc c : Color} {k : ℕ} (colour : stepColour i cc k = some c) :
    k < seqSteps i ∧ seqColour cc k i = some c := by
  unfold stepColour at colour
  split at colour
  · next inRange => exact ⟨inRange, colour⟩
  · cases colour

end Sys2Proof.Safety
end

section
/-! PROOF. The control invariant (R26 to R31, R270). -/

namespace Sys2Proof.Safety

open Sys2Proof.Machine

/-- While a sequence runs no fault is set and `rst` is released. -/
theorem running_of_controlInv {s : State} (inv : controlInv s) (running : s.seqState = .running) :
    s.fault = false ∧ s.cause = none ∧ s.rst = false ∧ s.desc = s.latch := by
  obtain ⟨-, ⟨faultCause, faultComplete⟩, -, latch, reset⟩ := inv
  have noFault : s.fault = false := by
    by_contra set
    have complete := (faultComplete (by simpa using set)).1
    rw [running] at complete
    cases complete
  have released : s.rst = false := by
    by_contra held
    have idle : s.seqState = .idle := by rw [reset (by simpa using held)]; rfl
    rw [running] at idle
    cases idle
  refine ⟨noFault, ?_, released, latch (by simp [running])⟩
  by_contra set
  have := faultCause.mpr set
  simp [noFault] at this

/-- In Running with a phase, or in Complete without one, and with no fault the invariant asks only that DESC is the latch. -/
theorem controlInv_of_no_fault {t : State} (busy : t.seqState ≠ .idle) (phased : phaseInv t) (noFault : t.fault = false)
    (noCause : t.cause = none) (released : t.rst = false) (latched : t.desc = t.latch) : controlInv t :=
  ⟨phased, ⟨by simp [noFault, noCause], by simp [noFault]⟩, fun idle => absurd idle busy, fun _ => latched,
    by simp [resetInv, released]⟩

theorem controlInv_eachEffect : EachEffect controlInv controlInv where
  ports s is d as inv := by
    obtain ⟨phased, faulted, idled, latched, reset⟩ := inv
    refine ⟨phased, faulted, idled, latched, fun held => ?_⟩
    have same := reset held
    rw [same]
    rfl
  refuse s inv released busy := by
    obtain ⟨phased, faulted, -, latched, -⟩ := inv
    exact ⟨phased, faulted, fun idle => absurd idle busy, latched, by simp [resetInv, released]⟩
  desc s d inv released idle := by
    obtain ⟨phased, faulted, idled, -, -⟩ := inv
    exact ⟨phased, faulted, idled, fun busy => absurd idle busy, by simp [resetInv, released]⟩
  fault s c inv released idle :=
    ⟨by simp [phaseInv], by simp [faultInv], by simp [idleInv], by simp [latchInv], by simp [resetInv, released]⟩
  frame s f inv released idle := by
    obtain ⟨phased, faulted, idled, -, -⟩ := inv
    exact ⟨phased, faulted, idled, fun busy => absurd idle busy, by simp [resetInv, released]⟩
  res s c inv released idle := by
    obtain ⟨phased, faulted, idled, -, -⟩ := inv
    exact ⟨phased, faulted, idled, fun busy => absurd idle busy, by simp [resetInv, released]⟩
  launch s i inv released idle decoded legal sequence := by
    obtain ⟨-, -, idled, -, -⟩ := inv
    obtain ⟨-, -, -, -, noFault, -, noCause, -⟩ := idled idle
    obtain ⟨-, complete, phase⟩ | ⟨-, running, phase, -⟩ := launched_cases i s
    · exact controlInv_of_no_fault (by simp [complete]) (by simp [phaseInv, complete, phase]) (by simpa) (by simpa)
        (by simpa) (by simp)
    · exact controlInv_of_no_fault (by simp [running]) (by simp [phaseInv, running, phase]) (by simpa) (by simpa)
        (by simpa) (by simp)
  first s r inv running phase := by
    obtain ⟨noFault, noCause, released, latched⟩ := running_of_controlInv inv running
    exact controlInv_of_no_fault (by simp [running]) (by cases r <;> simp [phaseInv, running]) (by simpa) (by simpa)
      (by simpa) (by simpa)
  second s r inv running phase := by
    obtain ⟨noFault, noCause, released, latched⟩ := running_of_controlInv inv running
    exact controlInv_of_no_fault (by simp [running]) (by simp [phaseInv, running]) (by simpa) (by simpa) (by simpa)
      (by simpa)
  last s inv running phase last := by
    obtain ⟨noFault, noCause, released, latched⟩ := running_of_controlInv inv running
    exact controlInv_of_no_fault (by simp) (by simp [phaseInv]) noFault noCause released latched
  next s i c inv running phase decoded colour := by
    obtain ⟨noFault, noCause, released, latched⟩ := running_of_controlInv inv running
    exact controlInv_of_no_fault (by simp [running]) (by simp [phaseInv, running]) noFault noCause released latched
  reset s b := by
    refine ⟨by simp [phaseInv, State.reset], by simp [faultInv, State.reset], fun _ => ?_,
      by simp [latchInv, State.reset], fun held => ?_⟩
    · exact ⟨rfl, rfl, rfl, rfl, rfl, rfl, rfl, rfl, rfl, rfl, rfl⟩
    · have asserted : b = true := held
      subst asserted
      rfl

/-- Settles O53: each effect keeps the control invariant. -/
theorem stepKeepsControlInvariant : Obligations.StepKeepsControlInvariant := fun _ _ => controlInv_eachEffect.step

end Sys2Proof.Safety
end

section
/-! PROOF. The error log (R33, R246). -/

namespace Sys2Proof.Safety

open Sys2Proof.Machine

theorem errorSteps_append (es fs : List Event) : errorSteps (es ++ fs) = errorSteps es ++ errorSteps fs := by
  induction es with
  | nil => rfl
  | cons e es ih =>
    cases e with
    | writeError k => exact congrArg (k :: ·) ih
    | txAttempt | wait | fault => exact ih

/-- A state whose log registers, and whose trace's write errors, are those of one with a right log. -/
theorem logInv_congr {s t : State} (inv : logInv s) (werrcnt : t.werrcnt = s.werrcnt) (werr : t.werr = s.werr)
    (lasterr : t.lasterr = s.lasterr) (errors : errorSteps t.trace = errorSteps s.trace) : logInv t := by
  unfold logInv at inv ⊢
  rwa [werrcnt, werr, lasterr, errors]

theorem logInv_eachEffect : EachEffect logInv logInv where
  ports _ _ _ _ inv := inv
  refuse _ inv _ _ := inv
  desc _ _ inv _ _ := inv
  fault s c inv _ _ := logInv_congr inv rfl rfl rfl (by simp [errorSteps_append, errorSteps])
  frame _ _ inv _ _ := inv
  res _ _ inv _ _ := inv
  launch s i inv _ _ _ _ _ := logInv_congr inv (by simp) (by simp) (by simp) (by simp)
  first s r inv _ _ := logInv_congr inv (by simp) (by simp) (by simp) (by simp [errorSteps_append, errorSteps])
  second s r inv _ _ := by
    cases r with
    | ok => exact logInv_congr inv rfl rfl rfl (by simp [answerSecond_ok, errorSteps_append, errorSteps])
    | failed =>
      obtain ⟨count, -, -⟩ := inv
      simp [logInv, answerSecond_failed, errorSteps_append, errorSteps, count, BitVec.ofNat_add]
  last s inv _ _ _ := logInv_congr inv rfl rfl rfl (by simp [errorSteps_append, errorSteps])
  next s i c inv _ _ _ _ := logInv_congr inv rfl rfl rfl (by simp [errorSteps_append, errorSteps])
  reset s b := by simp [logInv, State.reset, errorSteps]

/-- Settles O54: each effect keeps the log. -/
theorem stepKeepsErrorLog : Obligations.StepKeepsErrorLog := fun _ _ => logInv_eachEffect.step

end Sys2Proof.Safety
end

section
/-! PROOF. The frames presented to the Transport (R123, R205 (f)). -/

namespace Sys2Proof.Safety

open Sys2Proof.Machine

/-- R205 (f): a lane mask of a device colour is one. -/
theorem deviceColour_runningColour {cc : Color} (device : deviceColour cc) (k : ℕ) : deviceColour (runningColour cc k) := by
  obtain ⟨red, green, blue⟩ := device
  have off : deviceChannel 0 := .inl rfl
  unfold runningColour palette
  split
  · split
    · exact ⟨red, off, off⟩
    · exact ⟨off, green, off⟩
    · exact ⟨off, off, blue⟩
    · exact ⟨red, green, off⟩
    · exact ⟨off, green, blue⟩
    · exact ⟨red, off, blue⟩
    · exact ⟨red, green, blue⟩
  · exact ⟨red, green, blue⟩

/-- R205 (f): every step's colour is a device colour: compensated, black, CC or a lane mask of CC. -/
theorem deviceColour_seqColour {cc c : Color} (device : deviceColour cc) {k : ℕ} {i : Instr}
    (colour : seqColour cc k i = some c) : deviceColour c := by
  cases i with
  | encode | compensate | hsl2rgb => cases colour
  | setcolor | pulse | smooth | rainbow =>
    obtain rfl := Option.some.inj colour
    exact deviceColour_compensate _ _
  | flash =>
    obtain rfl := Option.some.inj colour
    unfold flashColour
    split
    · exact device
    · exact deviceColour_black
  | running =>
    obtain rfl := Option.some.inj colour
    exact deviceColour_runningColour device k

/-- R36: what a launch latches is compensated. -/
theorem deviceColour_seqLatch {cc : Color} (device : deviceColour cc) (i : Instr) :
    deviceColour ((seqLatch i).getD cc) := by
  cases i with
  | encode | compensate | hsl2rgb | setcolor | pulse | smooth | rainbow => exact device
  | flash | running => exact deviceColour_compensate _ _

/-- Every attempt of a trace carried an encoded device colour. -/
def DeviceFrames (es : List Event) : Prop :=
  ∀ k f ack r, Event.txAttempt k f ack r ∈ es → ∃ c, deviceColour c ∧ f = encodeFrame c

theorem DeviceFrames.append {es fs : List Event} (before : DeviceFrames es) (after : DeviceFrames fs) :
    DeviceFrames (es ++ fs) := fun k f ack r mem =>
  (List.mem_append.mp mem).elim (before k f ack r) (after k f ack r)

theorem deviceFrames_attempt {c : Color} (device : deviceColour c) (k : Word32) (ack : Bool) (r : Answer) :
    DeviceFrames [.txAttempt k (encodeFrame c) ack r] := by
  intro k' f ack' r' mem
  obtain ⟨-, rfl, -⟩ := Event.txAttempt.inj (List.mem_singleton.mp mem)
  exact ⟨c, device, rfl⟩

/-- No attempt, no frame. -/
theorem deviceFrames_of_no_attempt {es : List Event} (none : ∀ k f ack r, Event.txAttempt k f ack r ∉ es) :
    DeviceFrames es := fun k f ack r mem => absurd mem (none k f ack r)

theorem deviceFrames_answerSecond {s : State} {c : Color} (before : DeviceFrames s.trace) (device : deviceColour c)
    (frame : s.frame = encodeFrame c) (r : Answer) : DeviceFrames (answerSecond r s).trace := by
  cases r with
  | ok =>
    rw [answerSecond_ok, frame]
    exact before.append (deviceFrames_attempt device _ _ _)
  | failed =>
    rw [answerSecond_failed, frame]
    exact before.append ((deviceFrames_attempt device _ _ _).append
      (deviceFrames_of_no_attempt (es := [.writeError s.stepIndex]) (by simp)))

theorem deviceInv_eachEffect : EachEffect deviceInv deviceInv where
  ports _ _ _ _ inv := inv
  refuse _ inv _ _ := inv
  desc _ _ inv _ _ := inv
  fault s c inv _ _ := by
    obtain ⟨cc, -, frames⟩ := inv
    exact ⟨cc, fun running => by simp at running, DeviceFrames.append frames (deviceFrames_of_no_attempt (by simp))⟩
  frame s f inv _ idle := by
    obtain ⟨cc, -, frames⟩ := inv
    exact ⟨cc, fun running => by simp [idle] at running, frames⟩
  res s c inv _ idle := by
    obtain ⟨cc, -, frames⟩ := inv
    exact ⟨cc, fun running => by simp [idle] at running, frames⟩
  launch s i inv _ idle decoded legal sequence := by
    obtain ⟨cc, -, frames⟩ := inv
    have latched := deviceColour_seqLatch cc i
    obtain ⟨c, colour⟩ := seqColour_isSome sequence ((seqLatch i).getD s.cc) 0
    refine ⟨by simpa using latched, fun running => ?_, by simpa using frames⟩
    obtain ⟨-, complete, -⟩ | ⟨-, -, -, res, frame⟩ := launched_cases i s
    · rw [complete] at running
      cases running
    · rw [colour] at res frame
      rw [res, frame]
      exact ⟨deviceColour_seqColour latched colour, rfl⟩
  first s r inv running phase := by
    obtain ⟨cc, step, frames⟩ := inv
    obtain ⟨device, frame⟩ := step running
    refine ⟨by simpa using cc, fun _ => by simpa using step running, ?_⟩
    rw [answerFirst_trace, frame]
    exact DeviceFrames.append frames (deviceFrames_attempt device _ _ _)
  second s r inv running phase := by
    obtain ⟨cc, step, frames⟩ := inv
    obtain ⟨device, frame⟩ := step running
    exact ⟨by simpa using cc, fun _ => by simpa using step running, deviceFrames_answerSecond frames device frame r⟩
  last s inv running phase last := by
    obtain ⟨cc, -, frames⟩ := inv
    exact ⟨cc, fun running => by simp at running, DeviceFrames.append frames (deviceFrames_of_no_attempt (by simp))⟩
  next s i c inv running phase decoded colour := by
    obtain ⟨cc, -, frames⟩ := inv
    obtain ⟨-, colour⟩ := lt_seqSteps_of_stepColour colour
    exact ⟨cc, fun _ => ⟨deviceColour_seqColour cc colour, rfl⟩,
      DeviceFrames.append frames (deviceFrames_of_no_attempt (by simp))⟩
  reset s b := ⟨deviceColour_black, fun running => by simp [State.reset] at running,
    deviceFrames_of_no_attempt (by simp [State.reset])⟩

/-- Settles O55: each effect keeps the presented frames encoded device colours. -/
theorem stepKeepsDeviceFrames : Obligations.StepKeepsDeviceFrames := fun _ _ => deviceInv_eachEffect.step

end Sys2Proof.Safety
end

section
/-! PROOF. The whole invariant (R25, R32, R36, R67, R173 to R177): the registers of a command are its own, and TRACE is its
steps' events in order. -/

namespace Sys2Proof.Safety

open Sys2Proof.Machine

/-! ### The registers of a command -/

/-- A command in flight, taken out of the invariant. -/
theorem command_of_running {s : State} (control : controlInv s) (command : commandInv s) (running : s.seqState = .running) :
    ∃ i, decode s.latch = .ok i ∧ i.isSequence = true ∧ i.wellFormed = true ∧
      s.nsteps = BitVec.ofNat 32 (seqSteps i) ∧ s.delay = BitVec.ofNat 32 (seqDelay i) ∧
      (∀ c, seqLatch i = some c → s.cc = c) ∧ s.stepIndex.toNat < seqSteps i ∧
      stepColour i s.cc s.stepIndex.toNat = some s.res ∧ s.frame = encodeFrame s.res := by
  obtain ⟨noFault, -⟩ := running_of_controlInv control running
  obtain ⟨i, decoded, sequence, legal, steps, delay, latch, step, -⟩ := command (by simp [running]) noFault
  exact ⟨i, decoded, sequence, legal, steps, delay, latch, step running⟩

/-- R24, R25: STEP is below the number of steps, so counting it up does not wrap. -/
theorem toNat_stepIndex_succ {k : Word32} {i : Instr} (inRange : k.toNat < seqSteps i) : (k + 1).toNat = k.toNat + 1 := by
  have := seqSteps_le i
  have one : (1 : Word32).toNat = 1 := rfl
  rw [BitVec.toNat_add, one]
  omega

/-- What the invariant says of a command of which nothing but TRACE and PHASE has changed. -/
theorem commandInv_congr {s t : State} (inv : commandInv s) (seqState : t.seqState = s.seqState) (fault : t.fault = s.fault)
    (latch : t.latch = s.latch) (nsteps : t.nsteps = s.nsteps) (delay : t.delay = s.delay) (cc : t.cc = s.cc)
    (stepIndex : t.stepIndex = s.stepIndex) (res : t.res = s.res) (frame : t.frame = s.frame) : commandInv t := by
  unfold commandInv at inv ⊢
  rwa [seqState, fault, latch, nsteps, delay, cc, stepIndex, res, frame]

theorem commandInv_of_idle {s : State} (idle : s.seqState = .idle) : commandInv s := fun busy => absurd idle busy

theorem commandInv_launched {s : State} {i : Instr} (decoded : decode s.desc = .ok i) (legal : i.wellFormed = true)
    (sequence : i.isSequence = true) : commandInv (launched i s) := by
  intro _ _
  refine ⟨i, by simpa using decoded, sequence, legal, by simp, by simp, fun c latched => by simp [latched], ?_, ?_⟩
  · intro running
    obtain ⟨-, complete, -⟩ | ⟨some, -, -, res, frame⟩ := launched_cases i s
    · rw [complete] at running
      cases running
    · obtain ⟨c, colour⟩ := seqColour_isSome sequence ((seqLatch i).getD s.cc) 0
      rw [res, frame, colour]
      simp [stepColour, some, colour]
  · intro complete
    obtain ⟨none, -⟩ | ⟨-, running, -⟩ := launched_cases i s
    · simp [none]
    · rw [running] at complete
      cases complete

theorem commandInv_eachEffect : EachEffect (fun s => controlInv s ∧ commandInv s) commandInv where
  ports _ _ _ _ inv := inv.2
  refuse _ inv _ _ := inv.2
  desc _ _ _ _ idle := commandInv_of_idle idle
  fault _ _ _ _ _ := fun _ noFault => by simp at noFault
  frame _ _ _ _ idle := commandInv_of_idle idle
  res _ _ _ _ idle := commandInv_of_idle idle
  launch _ _ _ _ _ decoded legal sequence := commandInv_launched decoded legal sequence
  first s r inv _ _ := by apply commandInv_congr inv.2 <;> simp
  second s r inv _ _ := by apply commandInv_congr inv.2 <;> simp
  last s inv running phase last := by
    obtain ⟨i, decoded, sequence, legal, steps, delay, latch, inRange, -⟩ := command_of_running inv.1 inv.2 running
    refine fun _ _ => ⟨i, decoded, sequence, legal, steps, delay, latch, fun running => by simp at running, fun _ => ?_⟩
    show (s.stepIndex + 1).toNat = seqSteps i
    rw [last, steps, toNat_ofNat_seqSteps]
  next s i c inv running phase decoded colour := by
    obtain ⟨i', decoded', sequence, legal, steps, delay, latch, -⟩ := command_of_running inv.1 inv.2 running
    obtain rfl := Except.ok.inj (decoded.symm.trans decoded')
    refine fun _ _ => ⟨i, decoded, sequence, legal, steps, delay, latch, fun _ => ?_, fun complete => ?_⟩
    · exact ⟨(lt_seqSteps_of_stepColour colour).1, colour, rfl⟩
    · simp [running] at complete
  reset _ _ := commandInv_of_idle rfl

/-! ### The order of the events -/

theorem stepsTrace_append (i : Instr) (cc : Color) (ms : Word32) (k : ℕ) (as bs : List StepAnswers) :
    stepsTrace i cc ms k (as ++ bs) = stepsTrace i cc ms k as ++ stepsTrace i cc ms (k + as.length) bs := by
  induction as generalizing k with
  | nil => rfl
  | cons a as ih =>
    have shift : k + 1 + as.length = k + (as.length + 1) := by omega
    rw [List.cons_append, stepsTrace, stepsTrace, ih, List.append_assoc, List.length_cons, shift]

theorem stepsTrace_singleton (i : Instr) (cc : Color) (ms : Word32) (k : ℕ) (a : StepAnswers) :
    stepsTrace i cc ms k [a] = stepEvents (BitVec.ofNat 32 k) ms (stepFrame i cc k) a := List.append_nil _

theorem stepFrame_of_stepColour {i : Instr} {cc c : Color} {k : ℕ} (colour : stepColour i cc k = some c) :
    stepFrame i cc k = encodeFrame c := by
  rw [stepFrame, colour, Option.getD_some]

/-- TRACE is the events of whole steps, as many as STEP counts, and then `es`. -/
def TraceIs (s : State) (es : List Event) : Prop :=
  ∃ i answers, decode s.latch = .ok i ∧ answers.length = s.stepIndex.toNat ∧
    s.trace = stepsTrace i s.cc s.delay 0 answers ++ es

theorem traceInv_iff {s : State} :
    traceInv s ↔ (s.seqState ≠ .idle → s.fault = false → ∃ es, TraceIs s es ∧ partialEvents s es) := by
  refine forall₂_congr fun _ _ => ⟨?_, ?_⟩
  · rintro ⟨i, answers, es, decoded, length, part, trace⟩
    exact ⟨es, ⟨i, answers, decoded, length, trace⟩, part⟩
  · rintro ⟨es, ⟨i, answers, decoded, length, trace⟩, part⟩
    exact ⟨i, answers, es, decoded, length, part, trace⟩

theorem traceInv_of_idle {s : State} (idle : s.seqState = .idle) : traceInv s := fun busy => absurd idle busy

theorem traceInv_of_partial {s : State} {es : List Event} (trace : TraceIs s es) (part : partialEvents s es) : traceInv s :=
  traceInv_iff.mpr fun _ _ => ⟨es, trace, part⟩

/-- The events of the step in progress, while a command runs. -/
theorem trace_of_running {s : State} (control : controlInv s) (traced : traceInv s) (running : s.seqState = .running) :
    ∃ es, TraceIs s es ∧ partialEvents s es :=
  traceInv_iff.mp traced (by simp [running]) (running_of_controlInv control running).1

/-- Events added to the step in progress. -/
theorem TraceIs.emitted {s t : State} {es fs : List Event} (trace : TraceIs s es) (latch : t.latch = s.latch)
    (stepIndex : t.stepIndex = s.stepIndex) (cc : t.cc = s.cc) (delay : t.delay = s.delay) (added : t.trace = s.trace ++ fs) :
    TraceIs t (es ++ fs) := by
  obtain ⟨i, answers, decoded, length, trace⟩ := trace
  refine ⟨i, answers, latch ▸ decoded, stepIndex ▸ length, ?_⟩
  rw [added, trace, cc, delay, List.append_assoc]

/-- R176: the end of a wait closes the step: its events are those of `stepsTrace`. -/
theorem traceIs_endWait {s : State} (control : controlInv s) (command : commandInv s) (traced : traceInv s)
    (running : s.seqState = .running) (phase : s.phase = .wait) : TraceIs (endWait s) [] := by
  obtain ⟨i, decoded, -, -, -, -, -, inRange, colour, frame⟩ := command_of_running control command running
  obtain ⟨es, ⟨i', answers, decoded', length, trace⟩, part⟩ := trace_of_running control traced running
  obtain rfl := Except.ok.inj (decoded.symm.trans decoded')
  obtain ⟨a, rfl⟩ : ∃ a, es = writeEvents s.stepIndex s.frame a := by simpa [partialEvents, phase] using part
  have index : BitVec.ofNat 32 answers.length = s.stepIndex := by
    rw [length, BitVec.ofNat_toNat, BitVec.setWidth_eq]
  have stepEnds : stepsTrace i s.cc s.delay (0 + answers.length) [a] = stepEvents s.stepIndex s.delay s.frame a := by
    rw [Nat.zero_add, stepsTrace_singleton, index, length, stepFrame_of_stepColour colour, frame]
  refine ⟨i, answers ++ [a], decoded, ?_, ?_⟩
  · rw [endWait_stepIndex, toNat_stepIndex_succ inRange, List.length_append, length]
    rfl
  · rw [endWait_trace, endWait_cc, endWait_delay, stepsTrace_append, stepEnds, trace, stepEvents, List.append_nil,
      List.append_assoc]

theorem traceInv_launched {s : State} (control : controlInv s) (idle : s.seqState = .idle) {i : Instr}
    (decoded : decode s.desc = .ok i) : traceInv (launched i s) := by
  obtain ⟨-, -, idled, -, -⟩ := control
  obtain ⟨-, -, -, -, -, -, -, -, -, -, noEvent⟩ := idled idle
  refine traceInv_of_partial (es := []) ⟨i, [], by simpa using decoded, by simp, by simp [noEvent, stepsTrace]⟩ ?_
  obtain ⟨-, -, phase⟩ | ⟨-, -, phase, -⟩ := launched_cases i s
  · simp [partialEvents, phase]
  · simp [partialEvents, phase]

theorem traceInv_answerFirst {s : State} (control : controlInv s) (traced : traceInv s) (running : s.seqState = .running)
    (phase : s.phase = .att1) (r : Answer) : traceInv (answerFirst r s) := by
  obtain ⟨es, trace, part⟩ := trace_of_running control traced running
  obtain rfl : es = [] := by simpa [partialEvents, phase] using part
  refine traceInv_of_partial (trace.emitted (t := answerFirst r s) (by simp) (by simp) (by simp) (by simp)
    (answerFirst_trace r s)) ?_
  cases r with
  | ok => exact ⟨.accepted, rfl⟩
  | failed => exact (rfl : _ = _)

theorem traceInv_answerSecond {s : State} (control : controlInv s) (traced : traceInv s) (running : s.seqState = .running)
    (phase : s.phase = .att2) (r : Answer) : traceInv (answerSecond r s) := by
  obtain ⟨es, trace, part⟩ := trace_of_running control traced running
  obtain rfl : es = [.txAttempt s.stepIndex s.frame true .failed] := by simpa [partialEvents, phase] using part
  cases r with
  | ok => exact traceInv_of_partial (trace.emitted rfl rfl rfl rfl (answerSecond_ok s ▸ rfl)) ⟨.retried, rfl⟩
  | failed =>
    rw [answerSecond_failed]
    exact traceInv_of_partial (trace.emitted rfl rfl rfl rfl rfl) ⟨.lost, rfl⟩

theorem traceInv_eachEffect : EachEffect (fun s => controlInv s ∧ commandInv s ∧ traceInv s) traceInv where
  ports _ _ _ _ inv := inv.2.2
  refuse _ inv _ _ := inv.2.2
  desc _ _ _ _ idle := traceInv_of_idle idle
  fault _ _ _ _ _ := fun _ noFault => by simp at noFault
  frame _ _ _ _ idle := traceInv_of_idle idle
  res _ _ _ _ idle := traceInv_of_idle idle
  launch _ _ inv _ idle decoded _ _ := traceInv_launched inv.1 idle decoded
  first _ r inv running phase := traceInv_answerFirst inv.1 inv.2.2 running phase r
  second _ r inv running phase := traceInv_answerSecond inv.1 inv.2.2 running phase r
  last _ inv running phase _ := traceInv_of_partial (traceIs_endWait inv.1 inv.2.1 inv.2.2 running phase) rfl
  next _ _ _ inv running phase _ _ := traceInv_of_partial (traceIs_endWait inv.1 inv.2.1 inv.2.2 running phase) rfl
  reset _ _ := traceInv_of_idle rfl

/-! ### The event of a command fault -/

theorem faultTraceInv_of_no_fault {s : State} (noFault : s.fault = false) : faultTraceInv s :=
  fun _ set => by simp [noFault] at set

theorem faultTraceInv_eachEffect : EachEffect (fun s => controlInv s ∧ faultTraceInv s) faultTraceInv where
  ports _ _ _ _ inv := inv.2
  refuse _ inv _ _ := inv.2
  desc _ _ inv _ _ := inv.2
  fault s c inv _ idle := by
    obtain ⟨⟨-, -, idled, -, -⟩, -⟩ := inv
    obtain ⟨-, -, -, -, -, -, -, -, -, -, noEvent⟩ := idled idle
    intro c' _ cause
    obtain rfl : c = c' := by simpa using cause
    simp [noEvent]
  frame _ _ inv _ _ := inv.2
  res _ _ inv _ _ := inv.2
  launch s i inv _ idle _ _ _ := by
    obtain ⟨⟨-, -, idled, -, -⟩, -⟩ := inv
    obtain ⟨-, -, -, -, noFault, -⟩ := idled idle
    exact faultTraceInv_of_no_fault (by simpa using noFault)
  first s r inv running _ :=
    faultTraceInv_of_no_fault ((answerFirst_fault r s).trans (running_of_controlInv inv.1 running).1)
  second s r inv running _ :=
    faultTraceInv_of_no_fault ((answerSecond_fault r s).trans (running_of_controlInv inv.1 running).1)
  last _ inv running _ _ := faultTraceInv_of_no_fault (running_of_controlInv inv.1 running).1
  next _ _ _ inv running _ _ _ := faultTraceInv_of_no_fault (running_of_controlInv inv.1 running).1
  reset _ _ := faultTraceInv_of_no_fault rfl

/-! ### The whole -/

/-- The five parts, each kept under those that it needs. -/
theorem inv_eachEffect : EachEffect inv inv :=
  (controlInv_eachEffect.of_imp fun _ ⟨control, _⟩ => control).and <|
  (commandInv_eachEffect.of_imp fun _ ⟨control, command, _⟩ => ⟨control, command⟩).and <|
  (logInv_eachEffect.of_imp fun _ ⟨_, _, log, _⟩ => log).and <|
  (traceInv_eachEffect.of_imp fun _ ⟨control, command, _, traced, _⟩ => ⟨control, command, traced⟩).and <|
  (faultTraceInv_eachEffect.of_imp fun _ ⟨control, _, _, _, faulted⟩ => ⟨control, faulted⟩)

/-- Settles O56: each effect keeps the whole invariant. -/
theorem stepKeepsInvariant : Obligations.StepKeepsInvariant := fun _ _ => inv_eachEffect.step

/-- Settles O52: a reset gives the invariants from any state, and the reset state is the reset of itself. -/
theorem resetHasInvariant : Obligations.ResetHasInvariant :=
  ⟨inv_eachEffect.reset State.reset false, deviceInv_eachEffect.reset State.reset false⟩

/-! ### Consequences -/

theorem length_errorSteps_writeEvents (k : Word32) (f : Frame) (a : StepAnswers) :
    (errorSteps (writeEvents k f a)).length ≤ 1 := by
  cases a <;> simp [writeEvents, errorSteps]

/-- R178: a step logs at most one write error. -/
theorem length_errorSteps_stepsTrace (i : Instr) (cc : Color) (ms : Word32) (k : ℕ) (answers : List StepAnswers) :
    (errorSteps (stepsTrace i cc ms k answers)).length ≤ answers.length := by
  induction answers generalizing k with
  | nil => exact le_rfl
  | cons a answers ih =>
    have step := length_errorSteps_writeEvents (BitVec.ofNat 32 k) (stepFrame i cc k) a
    have rest := ih (k + 1)
    simp only [stepsTrace, stepEvents, errorSteps_append, List.length_append, List.length_cons, errorSteps,
      List.length_nil] at step rest ⊢
    omega

/-- The step in progress has logged at most one write error, and none outside Running. -/
theorem length_errorSteps_partialEvents {s : State} {es : List Event} (part : partialEvents s es) :
    (errorSteps es).length ≤ if s.phase = .none then 0 else 1 := by
  unfold partialEvents at part
  cases phase : s.phase with
  | none | att1 | att2 =>
    simp only [phase] at part
    simp [part, errorSteps]
  | wait =>
    simp only [phase] at part
    obtain ⟨a, rfl⟩ := part
    exact length_errorSteps_writeEvents _ _ a

/-- R33: the steps that have failed are among the command's. -/
theorem length_errorSteps_le {s : State} (holds : inv s) : (errorSteps s.trace).length ≤ s.nsteps.toNat := by
  obtain ⟨⟨phased, ⟨faultCause, -⟩, idled, -, -⟩, command, -, traced, faulted⟩ := holds
  by_cases idle : s.seqState = .idle
  · obtain ⟨-, -, -, -, -, -, -, -, -, -, noEvent⟩ := idled idle
    simp [noEvent, errorSteps]
  cases fault : s.fault with
  | true =>
    obtain ⟨c, cause⟩ := Option.ne_none_iff_exists'.mp (faultCause.mp fault)
    simp [faulted c fault cause, errorSteps]
  | false =>
    obtain ⟨i, -, -, -, steps, -, -, step, done⟩ := command idle fault
    obtain ⟨es, ⟨i', answers, -, length, trace⟩, part⟩ := traceInv_iff.mp traced idle fault
    have whole := length_errorSteps_stepsTrace i' s.cc s.delay 0 answers
    have partly := length_errorSteps_partialEvents part
    rw [trace, errorSteps_append, List.length_append, steps, toNat_ofNat_seqSteps]
    cases state : s.seqState with
    | idle => exact absurd state idle
    | running =>
      obtain ⟨inRange, -⟩ := step state
      split at partly <;> omega
    | complete =>
      have noPhase : s.phase = .none := by
        by_contra some
        have running := phased.mp some
        rw [state] at running
        cases running
      rw [if_pos noPhase] at partly
      have := done state
      omega

/-- Settles O57: WERRCNT is that number of failed steps. -/
theorem writeErrorsBoundedBySteps : Obligations.WriteErrorsBoundedBySteps := by
  intro s holds
  have bound := length_errorSteps_le holds
  obtain ⟨-, -, ⟨count, -, -⟩, -, -⟩ := holds
  rw [BitVec.le_def, count, BitVec.toNat_ofNat]
  exact (Nat.mod_le _ _).trans bound

/-- The machine stops with a fault nowhere but at the end of a wait. -/
theorem step_fault_cases {s : State} {f : Fault} (stopped : step s = .fault f) :
    ∃ rest, s.seqState = .running ∧ advance { s with inputs := rest } = .fault f := by
  cases pending : s.inputs with
  | nil => rw [step, pending] at stopped; cases stopped
  | cons i rest =>
    rw [step_eq_deliver pending] at stopped
    cases i with
    | tick =>
      by_cases waiting : s.seqState = .running ∧ s.phase = .wait
      · obtain ⟨running, phase⟩ := waiting
        rw [deliver_tick_of_wait (s := { s with inputs := rest }) running phase] at stopped
        exact ⟨rest, running, stopped⟩
      · rw [deliver_tick_refused (s := { s with inputs := rest }) (not_and_or.mp waiting)] at stopped
        cases stopped
    | memWrite a vs =>
      obtain ⟨t, written⟩ := writeBytes_next vs a { s with inputs := rest }
      rw [deliver, hostWrite, written] at stopped
      split at stopped <;> cases stopped
    | memRead a n =>
      rw [deliver, hostRead] at stopped
      split at stopped <;> cases stopped
    | readByte a =>
      rw [deliver, takeByte] at stopped
      split at stopped <;> cases stopped
    | ans r =>
      rw [deliver, transportAnswer] at stopped
      split at stopped
      · split at stopped <;> cases stopped
      · cases stopped
    | rst b => cases stopped

/-- R173: before its last step a command has a next colour. -/
theorem advance_next {s : State} (control : controlInv s) (command : commandInv s) (running : s.seqState = .running) :
    ∃ t, advance s = .next t := by
  obtain ⟨i, decoded, sequence, -, steps, -, -, inRange, -⟩ := command_of_running control command running
  by_cases last : s.stepIndex + 1 = s.nsteps
  · exact ⟨_, advance_of_last last⟩
  · have index := toNat_stepIndex_succ inRange
    have more : (s.stepIndex + 1).toNat < seqSteps i := by
      refine lt_of_le_of_ne (by omega) fun same => last ?_
      rw [steps, ← same, BitVec.ofNat_toNat, BitVec.setWidth_eq]
    obtain ⟨c, colour⟩ := stepColour_isSome sequence s.cc more
    exact ⟨_, advance_of_colour last ((latchedColour_of_decode (s := endWait s) decoded).trans colour)⟩

/-- Settles O58: only the end of a wait could fault, and it has a next state. -/
theorem noFaultUnderInvariant : Obligations.NoFaultUnderInvariant := by
  intro s f holds stopped
  obtain ⟨rest, running, faulted⟩ := step_fault_cases stopped
  obtain ⟨control, command, -⟩ := inv_eachEffect.ports s rest s.hostData s.reading holds
  obtain ⟨t, advanced⟩ := advance_next control command running
  rw [faulted] at advanced
  cases advanced

end Sys2Proof.Safety
end

section
/-! PROOF. A run to the end (R177, R182 (d)): from the first attempt of step `k`, one outcome for each step left leads through
their big steps to Complete. -/

namespace Sys2Proof.Safety

open Sys2Proof.Machine

/-! ### From one step to the next -/

/-- In the first attempt of step `k` of the latched command `i`. -/
structure AtStep (i : Instr) (k : ℕ) (s : State) : Prop where
  running : s.seqState = .running
  phase : s.phase = .att1
  decoded : decode s.latch = .ok i
  nsteps : s.nsteps = BitVec.ofNat 32 (seqSteps i)
  inRange : k < seqSteps i
  stepIndex : s.stepIndex = BitVec.ofNat 32 k
  frame : s.frame = stepFrame i s.cc k

/-- From `s` to `t` the steps from `k` on were sent, with these outcomes: their events, their write errors, and nothing else of
what the command holds. -/
structure Sent (i : Instr) (k : ℕ) (answers : List StepAnswers) (s t : State) : Prop where
  fault : t.fault = s.fault
  latch : t.latch = s.latch
  nsteps : t.nsteps = s.nsteps
  delay : t.delay = s.delay
  cc : t.cc = s.cc
  trace : t.trace = s.trace ++ stepsTrace i s.cc s.delay k answers
  werrcnt : t.werrcnt = s.werrcnt + BitVec.ofNat 32 (answers.count .lost)
  werr : t.werr = true ↔ s.werr = true ∨ .lost ∈ answers

theorem Sent.nil (i : Instr) (k : ℕ) (s : State) : Sent i k [] s s :=
  ⟨rfl, rfl, rfl, rfl, rfl, (List.append_nil _).symm, (BitVec.add_zero _).symm, by simp⟩

/-- The registers that `Sent` speaks of are not those that a new step or the end of the run sets. -/
theorem Sent.congr {i : Instr} {k : ℕ} {answers : List StepAnswers} {s t : State} (sent : Sent i k answers s t)
    (n : SeqState) (p : Phase) (c : Color) (f : Frame) (is : List Input) :
    Sent i k answers s { t with seqState := n, phase := p, res := c, frame := f, inputs := is } :=
  ⟨sent.fault, sent.latch, sent.nsteps, sent.delay, sent.cc, sent.trace, sent.werrcnt, sent.werr⟩

/-- One step and then the others. -/
theorem Sent.cons {i : Instr} {k : ℕ} {a : StepAnswers} {answers : List StepAnswers} {s t u : State}
    (first : Sent i k [a] s t) (others : Sent i (k + 1) answers t u) : Sent i k (a :: answers) s u where
  fault := others.fault.trans first.fault
  latch := others.latch.trans first.latch
  nsteps := others.nsteps.trans first.nsteps
  delay := others.delay.trans first.delay
  cc := others.cc.trans first.cc
  trace := by
    rw [others.trace, first.trace, first.cc, first.delay, stepsTrace_singleton, stepsTrace, List.append_assoc]
  werrcnt := by
    rw [others.werrcnt, first.werrcnt, BitVec.add_assoc, ← BitVec.ofNat_add, ← List.count_append, List.singleton_append]
  werr := by simp only [others.werr, first.werr, List.mem_cons, List.not_mem_nil, or_false, or_assoc]

/-- R186: one big step, up to what comes after it. -/
theorem sent_afterStep {i : Instr} {k : ℕ} {s : State} (begun : AtStep i k s) (a : StepAnswers) :
    Sent i k [a] s (afterStep a s) where
  fault := rfl
  latch := rfl
  nsteps := rfl
  delay := rfl
  cc := rfl
  trace := by rw [stepsTrace_singleton, ← begun.stepIndex, ← begun.frame]; rfl
  werrcnt := by cases a <;> simp [afterStep]
  werr := by cases a <;> simp [afterStep]

/-- R24: STEP counts up without wrapping as long as there is a step. -/
theorem AtStep.stepIndex_succ {i : Instr} {k : ℕ} {s : State} (begun : AtStep i k s) :
    s.stepIndex + 1 = BitVec.ofNat 32 (k + 1) := by
  rw [begun.stepIndex, BitVec.ofNat_add]
  rfl

/-- R176: it is the last step exactly when the command has no more. -/
theorem AtStep.last_iff {i : Instr} {k : ℕ} {s : State} (begun : AtStep i k s) :
    s.stepIndex + 1 = s.nsteps ↔ k + 1 = seqSteps i := by
  have := seqSteps_le i
  have := begun.inRange
  rw [begun.stepIndex_succ, begun.nsteps, ← BitVec.toNat_inj, BitVec.toNat_ofNat, BitVec.toNat_ofNat]
  omega

/-- R176: after the last step the run is over. -/
theorem bigStep_of_last {i : Instr} {k : ℕ} {s : State} (begun : AtStep i k s) (last : k + 1 = seqSteps i)
    (a : StepAnswers) : bigStep a s = .next { afterStep a s with seqState := .complete, phase := .none } := by
  rw [bigStep, if_pos (begun.last_iff.mpr last)]

/-- R176, R173: before it the next step begins. -/
theorem bigStep_of_more {i : Instr} {k : ℕ} {s : State} (begun : AtStep i k s) (sequence : i.isSequence = true)
    (more : k + 1 < seqSteps i) (a : StepAnswers) :
    ∃ c, bigStep a s = .next (beginStep c (afterStep a s)) ∧ AtStep i (k + 1) (beginStep c (afterStep a s)) := by
  have index : (s.stepIndex + 1).toNat = k + 1 := by
    have := seqSteps_le i
    rw [begun.stepIndex_succ, BitVec.toNat_ofNat]
    omega
  obtain ⟨c, colour⟩ := stepColour_isSome sequence s.cc more
  have latched : latchedColour (afterStep a s) = some c := by
    rw [latchedColour_of_decode (s := afterStep a s) begun.decoded, ← colour, ← index]
    rfl
  refine ⟨c, by rw [bigStep, if_neg (mt begun.last_iff.mp more.ne), latched], begun.running, rfl, begun.decoded, begun.nsteps,
    more, begun.stepIndex_succ, (stepFrame_of_stepColour colour).symm⟩

/-! ### The run -/

/-- Where a run that was sent ends. -/
structure Over (t : State) : Prop where
  complete : t.seqState = .complete
  phase : t.phase = .none
  stepIndex : t.stepIndex = t.nsteps
  inputs : t.inputs = []

/-- R177: an outcome for each step left leads to the end. -/
theorem feed_answers {i : Instr} (sequence : i.isSequence = true) (answers : List StepAnswers) {k : ℕ} {s : State}
    (begun : AtStep i k s) (length : k + answers.length = seqSteps i) :
    ∃ t, feed (answers.flatMap stepInputs) s = .next t ∧ Over t ∧ Sent i k answers s t := by
  induction answers generalizing k s with
  | nil =>
    have := begun.inRange
    simp only [List.length_nil] at length
    omega
  | cons a answers ih =>
    rw [List.length_cons] at length
    have atNoInputs : AtStep i k (withInputs [] s) :=
      ⟨begun.running, begun.phase, begun.decoded, begun.nsteps, begun.inRange, begun.stepIndex, begun.frame⟩
    have sent : Sent i k [a] s (afterStep a (withInputs [] s)) := (sent_afterStep begun a).congr _ _ _ _ []
    simp only [List.flatMap_cons, feed_stepInputs_append begun.running begun.phase]
    by_cases last : k + 1 = seqSteps i
    · obtain rfl : answers = [] := List.length_eq_zero_iff.mp (by omega)
      have stepIndex := atNoInputs.last_iff.mpr last
      exact ⟨_, ⟨_, bigStep_of_last atNoInputs last a, feed_nil _⟩, ⟨rfl, rfl, stepIndex, rfl⟩, sent.congr _ _ _ _ []⟩
    · obtain ⟨c, stepped, next⟩ := bigStep_of_more atNoInputs sequence (by omega) a
      obtain ⟨t, run, ended, others⟩ := ih next (by omega)
      exact ⟨t, ⟨_, stepped, run⟩, ended, (sent.congr _ _ c _ []).cons others⟩

/-- R171, R173: the write of 1 to CTRL launches the legal sequence that DESC holds. -/
theorem deliver_start {i : Instr} {s : State} (sequence : i.isSequence = true) (legal : i.wellFormed = true)
    (idle : s.seqState = .idle) (released : s.rst = false) (decoded : decode s.desc = .ok i) :
    deliver (.memWrite 0x10 [1]) s = .next (launched i s) := by
  rw [deliver_memWrite (by decide), writeBytes_singleton, writeByte_start (by decide) released, start_of_ok idle decoded,
    exec_of_sequence legal sequence]
  rfl

/-- R173: a launch of some step is in the first attempt of step 0. -/
theorem atStep_launched {i : Instr} {s : State} (decoded : decode s.desc = .ok i) (some : 0 < seqSteps i) :
    AtStep i 0 (launched i s) := by
  obtain ⟨none, -⟩ | ⟨-, running, phase, -, frame⟩ := launched_cases i s
  · omega
  · exact ⟨running, phase, by simpa using decoded, by simp, some, by simp,
      by rw [frame, launched_cc, stepFrame, stepColour, if_pos some]⟩

/-- R177: the launch and an outcome for each step, a command of no step included. -/
theorem feed_answers_launched {i : Instr} {s : State} (sequence : i.isSequence = true) (decoded : decode s.desc = .ok i)
    {answers : List StepAnswers} (length : answers.length = seqSteps i) :
    ∃ t, feed (answers.flatMap stepInputs) (launched i s) = .next t ∧ Over t ∧ Sent i 0 answers (launched i s) t := by
  obtain ⟨none, complete, phase⟩ | ⟨some, -⟩ := launched_cases i s
  · obtain rfl : answers = [] := List.length_eq_zero_iff.mp (length.trans none)
    have stepIndex : (launched i s).stepIndex = (launched i s).nsteps := by simp [none]
    exact ⟨withInputs [] (launched i s), feed_nil _, ⟨complete, phase, stepIndex, rfl⟩, (Sent.nil i 0 _).congr _ _ _ _ []⟩
  · exact feed_answers sequence answers (atStep_launched decoded some) (by omega)

/-- R178: a step takes two or three micro-steps. -/
theorem length_flatMap_stepInputs (answers : List StepAnswers) :
    2 * answers.length ≤ (answers.flatMap stepInputs).length ∧
      (answers.flatMap stepInputs).length ≤ 3 * answers.length := by
  induction answers with
  | nil => simp
  | cons a answers ih =>
    have step : 2 ≤ (stepInputs a).length ∧ (stepInputs a).length ≤ 3 := by cases a <;> decide
    rw [List.flatMap_cons, List.length_append, List.length_cons]
    omega

/-- Settles O59: START launches the command, whose steps then run to the end. -/
theorem sequenceRunsToComplete : Obligations.SequenceRunsToComplete := by
  intro i s answers sequence legal idle released noFault prepared length micro
  obtain ⟨low, high⟩ := length_flatMap_stepInputs answers
  rw [length] at low high
  have decoded : decode s.desc = .ok i := by rw [prepared, decode_encode]
  obtain ⟨t, run, ended, sent⟩ := feed_answers_launched sequence decoded length
  refine ⟨low, high, t, (feed_cons_of_next (deliver_start sequence legal idle released decoded) _).trans run,
    ⟨ended.complete, ?fault⟩, ended.phase, ?latch, ?nsteps, ended.stepIndex, ?delay, ended.inputs, ?trace, ?werrcnt, ?werr⟩
  case fault => rw [sent.fault, launched_fault, noFault]
  case latch => rw [sent.latch, launched_latch, prepared]
  case nsteps => rw [sent.nsteps, launched_nsteps]
  case delay => rw [sent.delay, launched_delay]
  case trace => rw [sent.trace, sent.delay, launched_trace, launched_cc]
  case werrcnt => rw [sent.werrcnt, launched_werrcnt]
  case werr => rw [sent.werr, launched_werr]

end Sys2Proof.Safety
end
